-- ==== Sys2Proof/Word.lean ====
section
/-! DEFINITION. The word types of AUART-CORE (spec/00_scope.md R8): every host-interface and peripheral register,
every caller-memory address, every length and every baud rate is 32 bits; a byte is 8 bits; the divisor is 16 bits. -/

namespace Sys2Proof

/-- A 32-bit register, address, length or baud rate (R8). -/
abbrev Word := BitVec 32

/-- One byte of caller memory, of a FIFO, of the wire or of the length prefix (R8, R81). -/
abbrev Byte := BitVec 8

/-- The baud divisor field BRG.DIV (R8, R60). -/
abbrev Divisor := BitVec 16

end Sys2Proof
end

