-- ==== Sys2Proof/Syntax.lean ====
section
/-! DEFINITION. The six operations of AUART-CORE, one constructor per row of spec/opcode_table.json, and the
four-word descriptor that encodes one (spec/30_encoding.md R120 to R128). -/

namespace Sys2Proof

/-- The operations. A target (a channel number or a configuration index) is a number that must fit the 8-bit field TGT
(R121, R134; see `Instr.wf`); every other operand is a full 32-bit word (R129). -/
inductive Instr where
  /-- PORT_INIT: `init(channel, baud)` (R123, R155). -/
  | portInit (ch : Nat) (baud : Word)
  /-- PORT_TX: `transmit(channel, data, length)` (R124, R159). -/
  | portTx (ch : Nat) (data len : Word)
  /-- PORT_RX: `receive(channel, buffer_or_null, length, error_summary_out)` (R125, R164). -/
  | portRx (ch : Nat) (buf len err : Word)
  /-- CH_INIT: `channel_init(config, baud)` (R126, R195). -/
  | chInit (cfg : Nat) (baud : Word)
  /-- CH_TX: `channel_transmit(config, packet, packet_length)` (R127, R197). -/
  | chTx (cfg : Nat) (pkt len : Word)
  /-- CH_RX: `channel_receive(config, buffer, buffer_length)` (R128, R202). -/
  | chRx (cfg : Nat) (buf blen : Word)
deriving DecidableEq, Repr

/-- An operation's descriptor: exactly four 32-bit words (R120). -/
structure Descriptor where
  w0 : Word
  w1 : Word
  w2 : Word
  w3 : Word
deriving DecidableEq, Repr

/-- The number in TGT: a channel for the port operations, a configuration index for the framing operations (R121). -/
def Instr.target : Instr → Nat
  | .portInit c _ => c
  | .portTx c _ _ => c
  | .portRx c _ _ _ => c
  | .chInit k _ => k
  | .chTx k _ _ => k
  | .chRx k _ _ => k

end Sys2Proof
end

