-- ==== Sys2Proof/WellFormed.lean ====
section
/-! DEFINITION. Which operations the descriptor format can carry. -/

namespace Sys2Proof

/-- An operation is well formed when its target fits the 8-bit field TGT: "`<ch>` and `<cfg>` must fit 8 bits; an
assembler rejects a larger value" (R134, R121). The other operands fit 32 bits by type. -/
def Instr.wf (i : Instr) : Bool := decide (i.target < 256)

end Sys2Proof
end

