-- ==== Sys2Proof/Decode.lean ====
section
/-! DEFINITION. The decoder of spec/30_encoding.md R130, total on every 128-bit descriptor and rejecting by name, and
the encoder written from the same field tables (R121 to R128). -/

namespace Sys2Proof

/-- The two decode faults of R130 and R131, each with the word that FINFO records. -/
inductive DecodeError where
  /-- OP is none of 0x1, 0x2, 0x3, 0x9, 0xA, 0xB; the word is W0. -/
  | illegalOp (w : Word)
  /-- A reserved field or an unused operand word is not 0; the word is the offending one. -/
  | reservedField (w : Word)
deriving DecidableEq, Repr

/-- The six legal operation codes (R122). -/
inductive Opcode where
  | portInit
  | portTx
  | portRx
  | chInit
  | chTx
  | chRx
deriving DecidableEq, Repr

/-- W0[3:0] (R121). -/
def opField (w0 : Word) : BitVec 4 := w0.extractLsb' 0 4

/-- W0[11:4] (R121). -/
def tgtField (w0 : Word) : BitVec 8 := w0.extractLsb' 4 8

/-- W0[31:12] (R121). -/
def rsvField (w0 : Word) : BitVec 20 := w0.extractLsb' 12 20

/-- The opcode map of R122. -/
def Opcode.bits : Opcode → BitVec 4
  | .portInit => 0x1#4
  | .portTx => 0x2#4
  | .portRx => 0x3#4
  | .chInit => 0x9#4
  | .chTx => 0xA#4
  | .chRx => 0xB#4

/-- The opcode map of R122 read the other way: the other ten values are reserved. -/
def Opcode.ofBits (b : BitVec 4) : Option Opcode :=
  if b = 0x1#4 then some .portInit
  else if b = 0x2#4 then some .portTx
  else if b = 0x3#4 then some .portRx
  else if b = 0x9#4 then some .chInit
  else if b = 0xA#4 then some .chTx
  else if b = 0xB#4 then some .chRx
  else none

/-- The checks of R130 on the unused operand words, in the order written: W2 then W3 for the init operations, W3 for
PORT_TX, CH_TX and CH_RX, none for PORT_RX. -/
def unusedWords (op : Opcode) (d : Descriptor) : Option DecodeError :=
  match op with
  | .portInit | .chInit =>
    if d.w2 ≠ 0#32 then some (.reservedField d.w2)
    else if d.w3 ≠ 0#32 then some (.reservedField d.w3)
    else none
  | .portTx | .chTx | .chRx => if d.w3 ≠ 0#32 then some (.reservedField d.w3) else none
  | .portRx => none

/-- The operand layout of R123 to R128. -/
def operands (op : Opcode) (d : Descriptor) : Instr :=
  let tgt := (tgtField d.w0).toNat
  match op with
  | .portInit => .portInit tgt d.w1
  | .portTx => .portTx tgt d.w1 d.w2
  | .portRx => .portRx tgt d.w1 d.w2 d.w3
  | .chInit => .chInit tgt d.w1
  | .chTx => .chTx tgt d.w1 d.w2
  | .chRx => .chRx tgt d.w1 d.w2

/-- The decode of R130: the checks run in the order written, and the first that fails is reported. -/
def decode (d : Descriptor) : Except DecodeError Instr :=
  match Opcode.ofBits (opField d.w0) with
  | none => .error (.illegalOp d.w0)
  | some op =>
    if rsvField d.w0 ≠ 0#20 then .error (.reservedField d.w0)
    else
      match unusedWords op d with
      | some e => .error e
      | none => .ok (operands op d)

/-- W0 = {RSV = 0, TGT, OP} (R121). -/
def packW0 (tgt : Nat) (op : Opcode) : Word := 0#20 ++ BitVec.ofNat 8 tgt ++ op.bits

/-- The descriptor of an operation, from the field tables of R121 to R128. -/
def encode : Instr → Descriptor
  | .portInit c baud => ⟨packW0 c .portInit, baud, 0#32, 0#32⟩
  | .portTx c a n => ⟨packW0 c .portTx, a, n, 0#32⟩
  | .portRx c b n e => ⟨packW0 c .portRx, b, n, e⟩
  | .chInit k baud => ⟨packW0 k .chInit, baud, 0#32, 0#32⟩
  | .chTx k a n => ⟨packW0 k .chTx, a, n, 0#32⟩
  | .chRx k b m => ⟨packW0 k .chRx, b, m, 0#32⟩

/-- The descriptor whose 128 bits are those of a number, W0 lowest: bit 0 is bit 0 of W0, and W1, W2 and W3 count on
from it (DESIGN CHOICE, notes/assumptions/18.md: the spec gives the four words no joint numbering). -/
def Descriptor.ofNat (w : Nat) : Descriptor :=
  ⟨BitVec.ofNat 32 w, BitVec.ofNat 32 (w / 4294967296), BitVec.ofNat 32 (w / 18446744073709551616),
    BitVec.ofNat 32 (w / 79228162514264337593543950336)⟩

/-- The operation the decoder reads from a table row's word of `nbits` bits, the bits above them 0. -/
def decodeTableWord (nbits w : Nat) : Option Instr :=
  match decode (Descriptor.ofNat (w % 2 ^ nbits)) with
  | .ok i => some i
  | .error _ => none

end Sys2Proof
end

