-- ==== Sys2Proof/Config.lean ====
section
/-! DEFINITION. The implementation parameters of spec/00_scope.md R7 as plain data, and the model's free values.

The spec makes these parameters ARGUMENTS of the model. They are carried, unchanged by every step, in the field
`State.params`, so that a theorem about every state is a theorem about every choice of parameters
(notes/assumptions/1.md). What the spec leaves open and a datum cannot name (an arbitrary transform, an arbitrary
admission predicate, the byte an empty receive register reads as) is an opaque constant below: nothing can evaluate it. -/

namespace Sys2Proof

/-- NATIVE_ORDER: the byte order of the 4-byte length prefix (R7, R84). -/
inductive ByteOrder where
  | little
  | big
deriving DecidableEq, Repr

/-- The direction of a transform (R11, R191). -/
inductive Dir where
  | encode
  | decode
deriving DecidableEq, Repr

/-- A transform function, by name: the spec's example ADD26 (R194), or any other transform, which is
`Config.userTransform id` (R191; notes/assumptions/10.md). -/
inductive Transform where
  | add26
  | user (id : Nat)
deriving DecidableEq, Repr

/-- One entry of CONFIG_TABLE: `channel_k`, an 8-bit value checked at use, and `transform_k`, absent for NONE (R190). -/
structure ChannelConfig where
  channel : Byte
  transform : Option Transform
deriving DecidableEq, Repr

/-- A block of caller memory that the platform admits. -/
structure Region where
  base : Nat
  size : Nat
deriving DecidableEq, Repr

/-- The platform's part of MEM_OK: the ranges inside one of a list of regions, or any other predicate, which is
`Config.userMemOk id` (R7; notes/assumptions/10.md). -/
inductive MemRule where
  | regions (rs : List Region)
  | user (id : Nat)
deriving DecidableEq, Repr

/-- The parity setting of a frame format (R7 LINE_FORMAT); with mark or space the parity bit is always 1 or always 0. -/
inductive Parity where
  | none
  | even
  | odd
  | mark
  | space
deriving DecidableEq, Repr

/-- LINE_FORMAT: the data-bits, parity and stop-bits format in force while MODE's format bits are 0 (R7, R52). Its legal
values are "any": a frame of data bits, parity and stop bits, the last counted in halves so that one and a half can be
given, or any other format by a number (notes/assumptions/20.md). No rule reads it. -/
inductive LineFormat where
  | frame (dataBits : Nat) (parity : Parity) (stopHalves : Nat)
  | other (id : Nat)
deriving DecidableEq, Repr

/-- The implementation parameters of R7, with UART_BASE of R86 (one address a channel, or none where the platform maps
no peripheral register into an address space). N_CONFIGS is the length of `configs`. -/
structure Params where
  nChannels : Nat
  pclkHz : Nat
  configs : List ChannelConfig
  rxDepth : Nat
  txDepth : Nat
  nativeOrder : ByteOrder
  memRule : MemRule
  lineFormat : LineFormat
  uartBase : List Nat
deriving DecidableEq, Repr

/-- The legal values of R7's table. -/
abbrev Params.legal (p : Params) : Prop :=
  1 ≤ p.nChannels ∧ p.nChannels ≤ 255 ∧ 1 ≤ p.pclkHz ∧ p.pclkHz < 4294967296 ∧
  1 ≤ p.configs.length ∧ p.configs.length ≤ 256 ∧ 1 ≤ p.rxDepth ∧ 1 ≤ p.txDepth

/-- The test values of R7 and spec/95_test_vectors.md section 0. DESIGN CHOICE: the parameters are OPEN in the spec, and
the state after reset carries these (notes/assumptions/1.md). -/
def Params.test : Params where
  nChannels := 2
  pclkHz := 80000000
  configs := [⟨1#8, none⟩, ⟨1#8, some .add26⟩, ⟨2#8, none⟩]
  rxDepth := 4
  txDepth := 1
  nativeOrder := .little
  memRule := .regions [⟨0x1000, 0x7000⟩]
  lineFormat := .frame 8 .none 2
  uartBase := []

/-- The transform functions other than ADD26: total, pure and length-preserving by type, and otherwise unknown
(R191, spec/93 U8). -/
opaque Config.userTransform : Nat → Dir → (n : Nat) → Vector Byte n → Vector Byte n

/-- The admission predicates other than a list of regions, otherwise unknown (R7 MEM_OK, spec/93 U16). -/
opaque Config.userMemOk : Nat → Nat → Nat → Bool

/-- The free value of an RXREG read with an empty receive FIFO, "unspecified (a draw)" (R92, spec/93 U3): the n-th draw. -/
opaque Config.emptyRxByte : Nat → Byte

end Sys2Proof
end

