-- ==== Sys2Proof/Machine/State.lean ====
section
/-! DEFINITION. Everything spec/10_state.md gives the machine, as plain data, and the state after reset (R67 to R69). -/

namespace Sys2Proof.Machine

/-- One entry of a receive FIFO: a byte and the line's verdicts on it (R63). -/
structure RxEntry where
  data : Byte
  pe : Bool
  fe : Bool
deriving DecidableEq, Repr

/-- CHST[c], the port driver's per-channel state machine (R46). -/
inductive Chst where
  | uninitialized
  | ready
deriving DecidableEq, Repr

/-- One channel: its driver state (R46), the stored bits of its peripheral registers (R52, R53, R60), its two FIFOs
(R63, R64) and what it has sent (R65). STATUS.RXDA, FERR, PERR and TXBF are computed, not stored (R54 to R58), and the
reserved bits of MODE, STATUS and BRG read 0. -/
structure Channel where
  chst : Chst
  on : Bool
  oerr : Bool
  txen : Bool
  rxen : Bool
  div : Divisor
  rxfifo : List RxEntry
  txbuf : List Byte
  wireOut : List Byte
deriving DecidableEq, Repr

/-- The five logical registers of a channel (R51); no other number exists. -/
inductive Reg where
  | mode
  | status
  | txreg
  | rxreg
  | brg
deriving DecidableEq, Repr

/-- BSTAT.STATE; "the value 3 never occurs" (R36). -/
inductive BState where
  | idle
  | busy
  | faulted
deriving DecidableEq, Repr

/-- The framing-layer phase FPHASE (R41). -/
inductive FPhase where
  | none
  | ctEncode
  | ctLen
  | ctPayload
  | crLen
  | crPayload
  | crDrain
  | crDecode
  | crResult
deriving DecidableEq, Repr

/-- The port engine's phase PPHASE (R42). -/
inductive PPhase where
  | idle
  | pi1
  | pi2
  | pi3
  | pi4
  | pi5
  | ptPoll
  | ptFetch
  | ptWrite
  | prPoll
  | prClear
  | prMrd
  | prMwr
  | prRead
  | prStore
deriving DecidableEq, Repr

/-- P_SRC, the byte source or sink of a transfer (R42). -/
inductive Source where
  | mem (a : Word)
  | len
  | null
deriving DecidableEq, Repr

/-- P_ERR, the error target of a receive (R42). -/
inductive ErrTarget where
  | none
  | mem (a : Word)
  | sum
deriving DecidableEq, Repr

/-- The fatal fault causes of R235. The codes 0x0B to 0xFF are never recorded. -/
inductive Cause where
  | illegalOp
  | reservedField
  | badChannel
  | badConfig
  | notInit
  | baudZero
  | baudRange
  | nullPtr
  | memRange
  | issueBusy
deriving DecidableEq, Repr

/-- LENBUF[0..3] (R45). -/
structure LenBuf where
  b0 : Byte
  b1 : Byte
  b2 : Byte
  b3 : Byte
deriving DecidableEq, Repr

/-- The host-interface registers by number (R39). -/
inductive HostReg where
  | d0
  | d1
  | d2
  | d3
  | res0
  | res1
  | bstat
  | fcause
  | finfo
deriving DecidableEq, Repr

/-- The unspecified values one channel's peripheral takes at a reset (R68). -/
structure Draw where
  on : Bool
  oerr : Bool
  txen : Bool
  rxen : Bool
  div : Divisor
  rxfifo : List RxEntry
  txbuf : List Byte
deriving DecidableEq, Repr

/-- One move of one agent (R30): a turn of the sequencer, a step of the host (R232, R31), a step of a line agent (R95),
or the platform's reset (R260) with the values its peripherals take (R68). -/
inductive Move where
  /-- The sequencer takes its next step (R12). -/
  | sequencer
  /-- The host's ISSUE of a descriptor (R233). -/
  | issue (w0 w1 w2 w3 : Word)
  /-- The host reads a host-interface register (R39). -/
  | hostRead (r : HostReg)
  /-- The host reads a byte of caller memory, which it owns (R31, R105). -/
  | hostLoad (a : Word)
  /-- The host writes a byte of caller memory, which it owns (R31, R105). -/
  | hostStore (a : Word) (v : Byte)
  /-- L_TX(c) (R96). -/
  | lineTx (c : Nat)
  /-- L_RX(c, b, pe, fe) (R97). -/
  | lineRx (c : Nat) (b : Byte) (pe fe : Bool)
  /-- Block reset (R260), with the peripherals' values of channels 1, 2, ... in order (R68). -/
  | reset (draws : List Draw)
deriving DecidableEq, Repr

/-- The machine. -/
structure State where
  /-- The implementation parameters (R7), which no step changes. -/
  params : Params
  /-- D0 to D3, the descriptor registers (R33). -/
  d0 : Word
  d1 : Word
  d2 : Word
  d3 : Word
  /-- RES0 (R34) and RES1 (R35), the results of the last completed CH_RX. -/
  res0 : Word
  res1 : Word
  /-- BSTAT.STATE (R36). -/
  bstat : BState
  /-- FCAUSE (R37): the cause of the fault taken, absent while none has been. -/
  fcause : Option Cause
  /-- FINFO (R38). -/
  finfo : Word
  /-- FPHASE (R41). -/
  fphase : FPhase
  /-- PPHASE, P_CH, P_SRC, P_LEN, P_IDX, P_ERR, P_S, P_D, P_E and P_BRG (R42). -/
  pphase : PPhase
  pCh : Byte
  pSrc : Source
  pLen : Word
  pIdx : Word
  pErr : ErrTarget
  pS : Word
  pD : Byte
  pE : Byte
  pBrg : Divisor
  /-- CUR_CFG, LENBUF, ERRSUM, PKT_LEN and RECV_LEN (R45). -/
  curCfg : Byte
  lenBuf : LenBuf
  errSum : Byte
  pktLen : Word
  recvLen : Word
  /-- The channels 1, 2, ..., N_CHANNELS in order (R46, R50 to R65). -/
  chans : List Channel
  /-- Caller memory (R81): the bytes that are not 0, by rising address (notes/assumptions/3.md). -/
  mem : List Host.Cell
  /-- The model's own: the moves of the agents that come next, in order (notes/assumptions/4.md). -/
  pending : List Move
  /-- The model's own: whose turn it is when `pending` is empty: 0 the sequencer, c the line agent of channel c
  (notes/assumptions/5.md). -/
  turn : Nat
  /-- The model's own: how many unspecified receive bytes have been drawn (notes/assumptions/7.md). -/
  draws : Nat
  /-- The model's own: the value the host's last read returned (notes/assumptions/16.md). -/
  hostData : Word
deriving DecidableEq, Repr

/-- Why a step can stop. The spec's own faults (R235) are no stops: they are taken, and the machine goes on in the
FAULTED state (R236). Every reason here is raised only in states that no run from a legal state reaches, and each stop is
SAFE: the model stops where the spec has no machine state at all (notes/assumptions/12.md). -/
inductive Fault where
  /-- Raised by a memory access at or past 2^32, which the address space of R81 does not hold; safe. -/
  | addressSpace
  /-- Raised by an access to the registers of a channel that does not exist (R86); safe. -/
  | noChannel
  /-- Raised by a use of a configuration outside the table (R190); safe. -/
  | noConfig
  /-- Raised by an access to LENBUF past its four bytes (R45); safe. -/
  | lenBufIndex
  /-- Raised by a phase that needs a memory operand when P_SRC or P_ERR holds none, or by a framing transfer phase
  with an idle port engine (R200, R206); safe. -/
  | strayPhase
deriving DecidableEq, Repr

/-- Why a step has no meaning. -/
inductive Refusal where
  /-- Raised by an arm of `exec` whose operation has no meaning yet; safe. No arm raises it. -/
  | notModelled (mnemonic : String)
  /-- Raised by a host access to a byte of a range that the operation in progress names: "the model gives the host no
  move on those bytes while BUSY" (R105, spec/93 U7). A run with that move does not exist; UNSAFE for a host with a
  second context that does make it (notes/assumptions/8.md). -/
  | hostBusyBuffer
  /-- Raised by a move of the line agent of a channel that does not exist (R30); safe (notes/assumptions/9.md). -/
  | noLineAgent
deriving DecidableEq, Repr

/-- A channel at reset: UNINITIALIZED (R46) with nothing sent (R69). DESIGN CHOICE for the peripheral's registers and
FIFOs, which R68 leaves unspecified: the values of the start state S0 of spec/95_test_vectors.md, all zero and empty
(notes/assumptions/2.md). -/
def Channel.reset : Channel where
  chst := .uninitialized
  on := false
  oerr := false
  txen := false
  rxen := false
  div := 0#16
  rxfifo := []
  txbuf := []
  wireOut := []

/-- The state after reset (R67 to R69): idle, with no move pending. DESIGN CHOICE: the parameters are the test values
(notes/assumptions/1.md) and caller memory lists nothing (notes/assumptions/3.md). -/
def State.reset : State where
  params := .test
  d0 := 0#32
  d1 := 0#32
  d2 := 0#32
  d3 := 0#32
  res0 := 0#32
  res1 := 0#32
  bstat := .idle
  fcause := none
  finfo := 0#32
  fphase := .none
  pphase := .idle
  pCh := 0#8
  pSrc := .null
  pLen := 0#32
  pIdx := 0#32
  pErr := .none
  pS := 0#32
  pD := 0#8
  pE := 0#8
  pBrg := 0#16
  curCfg := 0#8
  lenBuf := ⟨0#8, 0#8, 0#8, 0#8⟩
  errSum := 0#8
  pktLen := 0#32
  recvLen := 0#32
  chans := [Channel.reset, Channel.reset]
  mem := []
  pending := []
  turn := 0
  draws := 0
  hostData := 0#32

end Sys2Proof.Machine
end

