-- ==== Sys2Proof/Machine/Flags.lean ====
section
/-! DEFINITION. The flags: the STATUS register as software reads it (R53 to R59, R87), its fields as the sequencer takes
them from a value it has read, and the Receive Error Summary (R49). -/

namespace Sys2Proof.Machine

/-- STATUS.RXDA: the receive FIFO holds an entry (R54). -/
def Channel.rxda (ch : Channel) : Bool := !ch.rxfifo.isEmpty

/-- STATUS.FERR: the framing verdict of the head of the receive FIFO, and 0 when it is empty (R56). -/
def Channel.ferr (ch : Channel) : Bool :=
  match ch.rxfifo with
  | [] => false
  | e :: _ => e.fe

/-- STATUS.PERR: the parity verdict of the head of the receive FIFO, and 0 when it is empty (R57). -/
def Channel.perr (ch : Channel) : Bool :=
  match ch.rxfifo with
  | [] => false
  | e :: _ => e.pe

/-- STATUS.TXBF: the transmit buffer holds TX_DEPTH bytes (R58). -/
def Channel.txbf (txDepth : Nat) (ch : Channel) : Bool := decide (ch.txbuf.length = txDepth)

/-- A bit as a one-bit vector. -/
def bit (b : Bool) : BitVec 1 := BitVec.ofBool b

/-- STATUS as it reads: `{22'b0, RXEN, TXEN, 3'b0, TXBF, PERR, FERR, OERR, RXDA}` (R87). -/
def Channel.statusWord (txDepth : Nat) (ch : Channel) : Word :=
  0#22 ++ bit ch.rxen ++ bit ch.txen ++ 0#3 ++ bit (ch.txbf txDepth) ++ bit ch.perr ++ bit ch.ferr ++ bit ch.oerr ++ bit ch.rxda

/-- Field RXDA of a STATUS value (R53). -/
def Status.rxda (s : Word) : Bool := s.getLsbD 0

/-- Field OERR of a STATUS value (R53). -/
def Status.oerr (s : Word) : Bool := s.getLsbD 1

/-- Field FERR of a STATUS value (R53). -/
def Status.ferr (s : Word) : Bool := s.getLsbD 2

/-- Field PERR of a STATUS value (R53). -/
def Status.perr (s : Word) : Bool := s.getLsbD 3

/-- Field TXBF of a STATUS value (R53). -/
def Status.txbf (s : Word) : Bool := s.getLsbD 4

/-- The summary bit PARITY, mask 0x01 (R49). -/
def parityBit : Byte := 0x01#8

/-- The summary bit FRAMING, mask 0x02 (R49). -/
def framingBit : Byte := 0x02#8

/-- The summary bits of one byte's verdicts (R167). -/
def errBits (pe fe : Bool) : Byte := (if pe then parityBit else 0#8) ||| (if fe then framingBit else 0#8)

/-- The value that clears the overrun: the STATUS value just read with bit 1 cleared (R168). -/
def overrunClear (s : Word) : Word := s &&& ~~~0x00000002#32

/-- The code of BSTAT.STATE (R36). -/
def BState.code : BState → Word
  | .idle => 0#32
  | .busy => 1#32
  | .faulted => 2#32

/-- The encoding of CHST (R46). -/
def Chst.code : Chst → BitVec 1
  | .uninitialized => 0#1
  | .ready => 1#1

/-- The logical register numbers of R51; numbers 5 and up name no register. -/
def Reg.number : Reg → Nat
  | .mode => 0
  | .status => 1
  | .txreg => 2
  | .rxreg => 3
  | .brg => 4

/-- The host-interface register numbers of R39. -/
def HostReg.number : HostReg → Nat
  | .d0 => 0
  | .d1 => 1
  | .d2 => 2
  | .d3 => 3
  | .res0 => 4
  | .res1 => 5
  | .bstat => 6
  | .fcause => 7
  | .finfo => 8

/-- The cause codes of R235. -/
def Cause.code : Cause → Byte
  | .illegalOp => 0x01#8
  | .reservedField => 0x02#8
  | .badChannel => 0x03#8
  | .badConfig => 0x04#8
  | .notInit => 0x05#8
  | .baudZero => 0x06#8
  | .baudRange => 0x07#8
  | .nullPtr => 0x08#8
  | .memRange => 0x09#8
  | .issueBusy => 0x0A#8

/-- FCAUSE as it reads: the code of the fault taken, 0 while none has been (R37). -/
def fcauseWord : Option Cause → Word
  | none => 0#32
  | some c => c.code.setWidth 32

/-- The host-interface registers as the host reads them (R39). -/
def State.hostReg (s : State) : HostReg → Word
  | .d0 => s.d0
  | .d1 => s.d1
  | .d2 => s.d2
  | .d3 => s.d3
  | .res0 => s.res0
  | .res1 => s.res1
  | .bstat => s.bstat.code
  | .fcause => fcauseWord s.fcause
  | .finfo => s.finfo

end Sys2Proof.Machine
end

