-- ==== Sys2Proof/Machine/Operands.lean ====
section
/-! DEFINITION. The operand forms of the six operations and the checks each makes of them in its step 1, in the order of
R240: the channel, its readiness, the baud divisor, null pointers and admitted ranges. -/

namespace Sys2Proof.Machine

/-- A fault to raise: its cause and the value FINFO records (R235). -/
abbrev FaultInfo := Cause × Word

/-- Where a platform that maps a channel's registers from `base` on puts register r: `UART_BASE(c) + 4·r` (R86). -/
def uartAddr (base : Nat) (r : Reg) : Nat := base + 4 * r.number

/-- A byte range that holds a byte of a mapped register: each takes four bytes, from MODE's to BRG's (R86, R51). -/
def touchesUart (bases : List Nat) (a n : Nat) : Bool :=
  bases.any fun u => decide (a < uartAddr u .brg + 4 ∧ uartAddr u .mode < a + n)

/-- The platform's part of MEM_OK (R7). -/
def memRuleHolds (r : MemRule) (a n : Nat) : Bool :=
  match r with
  | .regions rs => rs.any fun g => decide (g.base ≤ a ∧ a + n ≤ g.base + g.size)
  | .user id => Config.userMemOk id a n

/-- MEM_OK(a, n): false at a = 0 (R7) and on the peripheral registers (R86), and otherwise as the platform says
(notes/assumptions/11.md). -/
def memOk (p : Params) (a n : Nat) : Bool :=
  decide (a ≠ 0) && !touchesUart p.uartBase a n && memRuleHolds p.memRule a n

/-- The byte range [a, a+n) is admitted; an empty one always is (R83). -/
def admitted (p : Params) (a n : Nat) : Bool :=
  decide (n = 0) || (decide (a + n ≤ 4294967296) && memOk p a n)

/-- Channel c of the machine, where 1 ≤ c ≤ N_CHANNELS (R46, R86). -/
def State.chan? (s : State) : Nat → Option Channel
  | 0 => none
  | k + 1 => s.chans[k]?

/-- CHST[c] = READY (R46). -/
def State.isReady (s : State) (c : Nat) : Bool :=
  match s.chan? c with
  | some ch => decide (ch.chst = .ready)
  | none => false

/-- The channel check of R150. -/
def checkChannel (p : Params) (c : Nat) : Except FaultInfo Unit :=
  if c = 0 ∨ p.nChannels < c then .error (.badChannel, BitVec.ofNat 32 c) else .ok ()

/-- The readiness check of R151. -/
def checkReady (s : State) (c : Nat) : Except FaultInfo Unit :=
  if s.isReady c then .ok () else .error (.notInit, BitVec.ofNat 32 c)

/-- q of R152: PCLK_HZ / baud divided by 16 with a rounding bias of 8, on exact numbers. -/
def baudQuotient (pclkHz baud : Nat) : Nat := (pclkHz / baud + 8) / 16

/-- The divisor of R152, with the range checks of R153. -/
def baudDivisor (p : Params) (baud : Word) : Except FaultInfo Divisor :=
  if baud = 0#32 then .error (.baudZero, 0#32)
  else
    let q := baudQuotient p.pclkHz baud.toNat
    if q = 0 ∨ 0xFFFF < q - 1 then .error (.baudRange, baud) else .ok (BitVec.ofNat 16 (q - 1))

/-- The null-pointer check of PORT_TX, CH_TX and CH_RX: an address 0 with a length above 0 (R159, R197, R202). -/
def checkNull (a n : Word) : Except FaultInfo Unit :=
  if 0#32 < n ∧ a = 0#32 then .error (.nullPtr, n) else .ok ()

/-- The admission check of a range that an operation will touch (R83). -/
def checkRange (p : Params) (a : Word) (n : Nat) : Except FaultInfo Unit :=
  if admitted p a.toNat n then .ok () else .error (.memRange, a)

/-- The configuration of a framing operation; an index outside the table is BAD_CONFIG (R190). -/
def findConfig (p : Params) (k : Nat) : Except FaultInfo ChannelConfig :=
  match p.configs[k]? with
  | some g => .ok g
  | none => .error (.badConfig, BitVec.ofNat 32 k)

/-- The checks of PORT_INIT's step 1 on channel c, which give the divisor (R155). -/
def checkInit (s : State) (c : Nat) (baud : Word) : Except FaultInfo Divisor :=
  (checkChannel s.params c).bind fun _ => baudDivisor s.params baud

/-- The checks of PORT_TX's step 1 on channel c, which CH_TX makes too (R159, R197). -/
def checkTx (s : State) (c : Nat) (a n : Word) : Except FaultInfo Unit :=
  (checkChannel s.params c).bind fun _ =>
  (checkReady s c).bind fun _ =>
  (checkNull a n).bind fun _ =>
  checkRange s.params a n.toNat

/-- The checks of PORT_RX's step 1: a null buffer and a null error byte are legal, and with n = 0 neither is checked
(R164). -/
def checkPortRx (s : State) (c : Nat) (b n e : Word) : Except FaultInfo Unit :=
  (checkChannel s.params c).bind fun _ =>
  (checkReady s c).bind fun _ =>
  (if b = 0#32 then .ok () else checkRange s.params b n.toNat).bind fun _ =>
  if n = 0#32 ∨ e = 0#32 then .ok () else checkRange s.params e 1

/-- The checks of CH_RX's step 1 on channel c (R202), the same as CH_TX's (R197): null pointer, then the whole
declared buffer. -/
def checkChRx (s : State) (c : Nat) (b m : Word) : Except FaultInfo Unit :=
  (checkChannel s.params c).bind fun _ =>
  (checkReady s c).bind fun _ =>
  (checkNull b m).bind fun _ =>
  checkRange s.params b m.toNat

/-- The sink a PORT_RX's buffer operand names: a null one discards (R164). -/
def sinkOf (b : Word) : Source := if b = 0#32 then .null else .mem b

/-- The error target a PORT_RX's error operand names (R164). -/
def errTargetOf (e : Word) : ErrTarget := if e = 0#32 then .none else .mem e

/-- The caller-memory address of byte i of a buffer (R159, R169). -/
def byteAddr (base idx : Word) : Nat := base.toNat + idx.toNat

/-- The caller-memory ranges that an operation's operands name, as (address, length), for the host duty of R105. -/
def namedRanges : Instr → List (Nat × Nat)
  | .portInit _ _ => []
  | .portTx _ a n => [(a.toNat, n.toNat)]
  | .portRx _ b n e =>
    (if b = 0#32 then [] else [(b.toNat, n.toNat)]) ++ (if e = 0#32 then [] else [(e.toNat, 1)])
  | .chInit _ _ => []
  | .chTx _ a n => [(a.toNat, n.toNat)]
  | .chRx _ b m => [(b.toNat, m.toNat)]

/-! ## The caller memory that the next step of an operation accesses -/

/-- The words D[1] and D[2] that an operation's steps after step 1 take. -/
def operandWords : Instr → Word × Word
  | .portInit _ baud => (baud, 0#32)
  | .portTx _ a n => (a, n)
  | .portRx _ b n _ => (b, n)
  | .chInit _ baud => (baud, 0#32)
  | .chTx _ a n => (a, n)
  | .chRx _ b m => (b, m)

/-- The caller-memory ranges that the next step of an operation reads, as (address, length): the range of a transform step
(R192, R197, R202), a byte in PT_FETCH and in PR_MRD (R159, R170), and none in any other. -/
def fetchedRanges (i : Instr) (s : State) : List (Nat × Nat) :=
  match s.fphase with
  | .ctEncode => [((operandWords i).1.toNat, (operandWords i).2.toNat)]
  | .crDecode => [((operandWords i).1.toNat, s.recvLen.toNat)]
  | .crResult => []
  | .none | .ctLen | .ctPayload | .crLen | .crPayload | .crDrain =>
    match s.pphase, s.pSrc, s.pErr with
    | .ptFetch, .mem a, _ => [(byteAddr a s.pIdx, 1)]
    | .prMrd, _, .mem e => [(e.toNat, 1)]
    | _, _, _ => []

/-- The caller-memory ranges that the next step of an operation writes, as (address, length): the range of a transform step
(R192, R197, R202), a byte in PR_MWR and in PR_STORE (R169, R170), and none in any other. -/
def storedRanges (i : Instr) (s : State) : List (Nat × Nat) :=
  match s.fphase with
  | .ctEncode => [((operandWords i).1.toNat, (operandWords i).2.toNat)]
  | .crDecode => [((operandWords i).1.toNat, s.recvLen.toNat)]
  | .crResult => []
  | .none | .ctLen | .ctPayload | .crLen | .crPayload | .crDrain =>
    match s.pphase, s.pSrc, s.pErr with
    | .prMwr, _, .mem e => [(e.toNat, 1)]
    | .prStore, .mem b, _ => [(byteAddr b s.pIdx, 1)]
    | _, _, _ => []

end Sys2Proof.Machine
end

