-- ==== Sys2Proof/Machine/Ops.lean ====
section
/-! DEFINITION. The named operations of R11 over caller memory and the peripheral registers, the byte order of the length
prefix, the transform, taking a fault, completion, and reset. Every meaning is written over these. -/

namespace Sys2Proof.Machine

/-! ## Caller memory (R80 to R83) -/

/-- What the byte at an address reads as: its entry, or 0 where none is listed (DESIGN CHOICE, notes/assumptions/3.md). -/
def Memory.read : List Host.Cell → Nat → Byte
  | [], _ => 0#8
  | (k, v) :: rest, a => if k = a then v else Memory.read rest a

/-- Set one byte of a memory in canonical form; a byte set to 0 leaves the list. -/
def Memory.write : List Host.Cell → Nat → Byte → List Host.Cell
  | [], a, v => if v = 0#8 then [] else [(a, v)]
  | (k, w) :: rest, a, v =>
    if k < a then (k, w) :: Memory.write rest a v
    else if k = a then (if v = 0#8 then rest else (a, v) :: rest)
    else if v = 0#8 then (k, w) :: rest
    else (a, v) :: (k, w) :: rest

/-- Every listed address is at least `lo` and inside the address space, the addresses rise strictly, and no listed byte
is 0. -/
def Memory.wfFrom (lo : Nat) : List Host.Cell → Bool
  | [] => true
  | (k, v) :: rest => decide (lo ≤ k ∧ k < 4294967296 ∧ v ≠ 0#8) && Memory.wfFrom (k + 1) rest

/-- The canonical form: equal memories are equal lists. -/
def Memory.wf (m : List Host.Cell) : Bool := Memory.wfFrom 0 m

/-- The n bytes from address a on. -/
def Memory.readRange (m : List Host.Cell) (a n : Nat) : List Byte := (List.range n).map fun i => Memory.read m (a + i)

/-- Write a list of bytes from address a on. -/
def Memory.writeRange (m : List Host.Cell) (a : Nat) : List Byte → List Host.Cell
  | [] => m
  | v :: vs => Memory.writeRange (Memory.write m a v) (a + 1) vs

/-- `MemRead(a, 1)` (R82). No access passes the end of the 2^32-byte space (R81, R83). -/
def memRead (s : State) (a : Nat) : Except Fault Byte :=
  if a < 4294967296 then .ok (Memory.read s.mem a) else .error .addressSpace

/-- `MemWrite(a, 1, v)` (R82). -/
def memWrite (s : State) (a : Nat) (v : Byte) : Except Fault State :=
  if a < 4294967296 then .ok { s with mem := Memory.write s.mem a v } else .error .addressSpace

/-! ## The length prefix (R84, R45) -/

/-- Byte i of LENBUF, where it has one. -/
def LenBuf.get? (b : LenBuf) : Nat → Option Byte
  | 0 => some b.b0
  | 1 => some b.b1
  | 2 => some b.b2
  | 3 => some b.b3
  | _ => none

/-- LENBUF with byte i set, where it has one. -/
def LenBuf.set? (b : LenBuf) (i : Nat) (v : Byte) : Option LenBuf :=
  match i with
  | 0 => some { b with b0 := v }
  | 1 => some { b with b1 := v }
  | 2 => some { b with b2 := v }
  | 3 => some { b with b3 := v }
  | _ => none

/-- The bytes of LENBUF in wire order. -/
def LenBuf.toList (b : LenBuf) : List Byte := [b.b0, b.b1, b.b2, b.b3]

/-- Bits `lo + 7` to `lo` of a word. -/
def byteOf (l : Word) (lo : Nat) : Byte := l.extractLsb' lo 8

/-- `serialise(L)`: B[0] is sent first (R84). -/
def serialise (o : ByteOrder) (l : Word) : LenBuf :=
  match o with
  | .little => ⟨byteOf l 0, byteOf l 8, byteOf l 16, byteOf l 24⟩
  | .big => ⟨byteOf l 24, byteOf l 16, byteOf l 8, byteOf l 0⟩

/-- `assemble(B)`, the inverse of `serialise` (R84). -/
def assemble (o : ByteOrder) (b : LenBuf) : Word :=
  match o with
  | .little => b.b3 ++ b.b2 ++ b.b1 ++ b.b0
  | .big => b.b0 ++ b.b1 ++ b.b2 ++ b.b3

/-- `min(a, b)` (R10). -/
def minWord (a b : Word) : Word := if a ≤ b then a else b

/-! ## The peripheral registers (R86 to R94) -/

/-- The machine with channel c replaced; no channel has number 0. -/
def State.setChan (s : State) : Nat → Channel → State
  | 0, _ => s
  | k + 1, ch => { s with chans := s.chans.set k ch }

/-- `RegWrite(c, MODE, v)`: with bit 0 clear it also empties both FIFOs and clears OERR (R89). -/
def Channel.writeMode (ch : Channel) (v : Word) : Channel :=
  if v.getLsbD 0 then { ch with on := true }
  else { ch with on := false, rxfifo := [], txbuf := [], oerr := false }

/-- `RegWrite(c, STATUS, v)`: TXEN and RXEN from bits 8 and 9; a 0 in bit 1 clears OERR and a 1 leaves it (R90). -/
def Channel.writeStatus (ch : Channel) (v : Word) : Channel :=
  { ch with txen := v.getLsbD 8, rxen := v.getLsbD 9, oerr := ch.oerr && v.getLsbD 1 }

/-- `RegWrite(c, TXREG, v)`: the byte is lost where the peripheral is off or its buffer is full (R91). -/
def Channel.writeTxreg (txDepth : Nat) (ch : Channel) (v : Word) : Channel :=
  if ch.on ∧ ch.txbuf.length < txDepth then { ch with txbuf := ch.txbuf ++ [v.extractLsb' 0 8] } else ch

/-- `RegWrite(c, BRG, v)`: bits 15 to 0 (R93). -/
def Channel.writeBrg (ch : Channel) (v : Word) : Channel := { ch with div := v.extractLsb' 0 16 }

/-- A write of a channel's register; RXREG is read-only, and a write of it has no effect (R93, R62). -/
def Channel.writeReg (p : Params) (ch : Channel) (r : Reg) (v : Word) : Channel :=
  match r with
  | .mode => ch.writeMode v
  | .status => ch.writeStatus v
  | .txreg => ch.writeTxreg p.txDepth v
  | .rxreg => ch
  | .brg => ch.writeBrg v

/-- `RegWrite(c, r, v)` (R11, R88). -/
def regWrite (s : State) (c : Nat) (r : Reg) (v : Word) : Except Fault State :=
  match s.chan? c with
  | none => .error .noChannel
  | some ch => .ok (s.setChan c (ch.writeReg s.params r v))

/-- `RegRead(c, RXREG)`: the head of the receive FIFO, which it removes; with an empty FIFO bits 7 to 0 are a free value
and no register or FIFO changes (R92, notes/assumptions/7.md). -/
def readRxreg (s : State) (c : Nat) (ch : Channel) : Word × State :=
  match ch.rxfifo with
  | e :: rest => (e.data.setWidth 32, s.setChan c { ch with rxfifo := rest })
  | [] => ((Config.emptyRxByte s.draws).setWidth 32, { s with draws := s.draws + 1 })

/-- `RegRead(c, r)`: the value and the state after it. Only a read of RXREG has a side effect (R87, R94). -/
def regRead (s : State) (c : Nat) (r : Reg) : Except Fault (Word × State) :=
  match s.chan? c with
  | none => .error .noChannel
  | some ch =>
    match r with
    | .mode => .ok ((bit ch.on).setWidth 32, s)
    | .status => .ok (ch.statusWord s.params.txDepth, s)
    | .txreg => .ok (0#32, s)
    | .rxreg => .ok (readRxreg s c ch)
    | .brg => .ok (ch.div.setWidth 32, s)

/-! ## The transform (R191 to R194) -/

/-- ADD26 on one byte, modulo 256 (R194). -/
def add26Byte (d : Dir) (b : Byte) : Byte :=
  match d with
  | .encode => b + 26#8
  | .decode => b - 26#8

/-- The function a transform is: of the direction and the bytes alone, and as long as its input (R191). -/
def applyTransform (t : Transform) (d : Dir) (bs : List Byte) : List Byte :=
  match t with
  | .add26 => bs.map (add26Byte d)
  | .user id => (Config.userTransform id d bs.length ⟨bs.toArray, by simp⟩).toList

/-- The memory after a transform of the range [a, a+n), in place (R192). -/
def transformMem (t : Transform) (d : Dir) (m : List Host.Cell) (a n : Nat) : List Host.Cell :=
  Memory.writeRange m a (applyTransform t d (Memory.readRange m a n))

/-- `Transform(k, dir, a, n)` for k = CUR_CFG: one indivisible step; with n = 0 it accesses no memory (R192). -/
def transformRange (s : State) (d : Dir) (a n : Nat) : Except Fault State :=
  match s.params.configs[s.curCfg.toNat]? with
  | none => .error .noConfig
  | some g =>
    match g.transform with
    | none => .ok s
    | some t =>
      if n = 0 then .ok s
      else if a + n ≤ 4294967296 then .ok { s with mem := transformMem t d s.mem a n }
      else .error .addressSpace

/-! ## Faults, completion and the start of a transfer -/

/-- `raise Fault(cause, info)`: taking a fatal fault. It records the cause and the value, stops the sequencer, and changes
nothing else; there is no handler, no saved return point and no return (R236, R239). -/
def raiseFault (c : Cause) (info : Word) (s : State) : State :=
  { s with bstat := .faulted, fcause := some c, finfo := info, fphase := .none, pphase := .idle }

/-- The completion of an operation: D0 to D3, RES0 and RES1 stay (R234). -/
def complete (s : State) : State := { s with bstat := .idle, fphase := .none, pphase := .idle }

/-- "start TxBytes(c, src, n)" (spec/41_framing.md, opening text). -/
def startTx (c : Byte) (src : Source) (n : Word) (s : State) : State :=
  { s with pCh := c, pSrc := src, pLen := n, pIdx := 0#32, pphase := .ptPoll }

/-- "start RxBytes(c, sink, n, SUM)" (spec/41_framing.md, opening text), with any error target. -/
def startRx (c : Byte) (sink : Source) (n : Word) (e : ErrTarget) (s : State) : State :=
  { s with pCh := c, pSrc := sink, pLen := n, pIdx := 0#32, pErr := e, pphase := .prPoll }

/-- Latch a descriptor and start its operation: the accepting arm of ISSUE (R233). -/
def latch (d : Descriptor) (s : State) : State :=
  { s with d0 := d.w0, d1 := d.w1, d2 := d.w2, d3 := d.w3, fphase := .none, pphase := .idle, bstat := .busy }

/-- The descriptor of the operation being executed (R33). -/
def State.descriptor (s : State) : Descriptor := ⟨s.d0, s.d1, s.d2, s.d3⟩

/-- Whether the sequencer's next step is step 1 of the operation (R44, R233). -/
def State.atStart (s : State) : Bool := decide (s.fphase = .none ∧ s.pphase = .idle)

/-- The outcome of a meaning. -/
def toOutcome : Except Fault State → Host.Outcome State Fault Refusal
  | .ok s => .next s
  | .error f => .fault f

/-! ## Reset (R260 to R262) -/

/-- The draw that leaves every peripheral bit 0 and both FIFOs empty. -/
def Draw.zero : Draw := ⟨false, false, false, false, 0#16, [], []⟩

/-- A channel after a reset: UNINITIALIZED, nothing sent, and the drawn peripheral values, the FIFOs cut to their depths
(R46, R68, R69). -/
def Channel.afterReset (p : Params) (d : Draw) : Channel where
  chst := .uninitialized
  on := d.on
  oerr := d.oerr
  txen := d.txen
  rxen := d.rxen
  div := d.div
  rxfifo := d.rxfifo.take p.rxDepth
  txbuf := d.txbuf.take p.txDepth
  wireOut := []

/-- Block reset: the block's own state takes the values of R67, the peripherals take the drawn values (R68), the wire
histories are emptied and caller memory stays (R69). The parameters and the model's own fields stay. -/
def blockReset (draws : List Draw) (s : State) : State :=
  { State.reset with
    params := s.params
    chans := (List.range s.params.nChannels).map fun i => Channel.afterReset s.params (draws.getD i Draw.zero)
    mem := s.mem
    pending := s.pending
    turn := s.turn
    draws := s.draws
    hostData := s.hostData }

end Sys2Proof.Machine
end

