-- ==== Sys2Proof/Machine/Engine.lean ====
section
/-! DEFINITION. The steps after step 1 that the six operations share: PORT_INIT's register writes (R155 steps 2 to 6),
TxBytes (R159 steps 2 to 4), RxBytes (R164 steps 2 to 7), and the framing state machines of CH_TX (R200) and CH_RX (R206)
that the end of a transfer returns to (R154). FPHASE and PPHASE name the step (R44). `w1` and `w2` are the operation's
words D[1] and D[2]. -/

namespace Sys2Proof.Machine

/-- AFTER_DRAIN: the decode where the configuration has a transform, else the result (R202). -/
def afterDrain (s : State) : Except Fault State :=
  match s.params.configs[s.curCfg.toNat]? with
  | none => .error .noConfig
  | some g => .ok { s with fphase := if g.transform.isSome then .crDecode else .crResult, pphase := .idle }

/-- AFTER_PAYLOAD: the drain of the bytes that did not fit, if any (R202, R204). -/
def afterPayload (s : State) : Except Fault State :=
  if s.recvLen < s.pktLen then
    .ok (startRx s.pCh .null (s.pktLen - s.recvLen) .sum { s with fphase := .crDrain })
  else afterDrain s

/-- The end of CR_LEN: the declared length, the stored length, and the payload if there is any to store (R202). -/
def afterPrefix (b m : Word) (s : State) : Except Fault State :=
  let pkt := assemble s.params.nativeOrder s.lenBuf
  let s := { s with pktLen := pkt, recvLen := minWord pkt m }
  if 0#32 < s.recvLen then .ok (startRx s.pCh (.mem b) s.recvLen .sum { s with fphase := .crPayload })
  else afterPayload s

/-- The end of CT_LEN: the payload, if there is any (R197). -/
def afterLength (a n : Word) (s : State) : Except Fault State :=
  if n = 0#32 then .ok (complete s) else .ok (startTx s.pCh (.mem a) n { s with fphase := .ctPayload })

/-- The end of a port transfer or of the init sequence: the operation completes, or control returns to the framing state
machine, whose next step FPHASE names (R154). -/
def finishTransfer (w1 w2 : Word) (s : State) : Except Fault State :=
  match s.fphase with
  | .none => .ok (complete s)
  | .ctLen => afterLength w1 w2 s
  | .ctPayload => .ok (complete s)
  | .crLen => afterPrefix w1 w2 s
  | .crPayload => afterPayload s
  | .crDrain => afterDrain s
  | .ctEncode | .crDecode | .crResult => .error .strayPhase

/-- One byte done: the next one's phase, or the end of the transfer (ADVANCE of R164; step PT_WRITE of R159). -/
def advance (poll : PPhase) (w1 w2 : Word) (s : State) : Except Fault State :=
  let s := { s with pIdx := s.pIdx + 1#32 }
  if s.pIdx = s.pLen then finishTransfer w1 w2 { s with pphase := .idle } else .ok { s with pphase := poll }

/-! ## PORT_INIT, step 1, which CH_INIT shares (R155, R195), and steps 2 to 6 (R155, R156) -/

/-- Step 1 of PORT_INIT on channel c: the checks, and the divisor before any register write (R157). -/
def acceptInit (c : Nat) (baud : Word) (s : State) : State :=
  match checkInit s c baud with
  | .error (cause, info) => raiseFault cause info s
  | .ok div => { s with pCh := BitVec.ofNat 8 c, pBrg := div, pphase := .pi1 }

/-- A register write of the init sequence and the next phase. -/
def initWrite (r : Reg) (v : Word) (next : PPhase) (s : State) : Except Fault State :=
  (regWrite s s.pCh.toNat r v).bind fun s => .ok { s with pphase := next }

/-- CHST[c] <- READY (R47). -/
def setReady (c : Nat) (s : State) : State :=
  match s.chan? c with
  | some ch => s.setChan c { ch with chst := .ready }
  | none => s

/-- Step 6: TXEN and RXEN are set, the channel is READY, and the init sequence has completed (R155, R158). -/
def stepPi5 (w1 w2 : Word) (s : State) : Except Fault State :=
  (regWrite s s.pCh.toNat .status 0x00000300#32).bind fun s =>
    finishTransfer w1 w2 { setReady s.pCh.toNat s with pphase := .idle }

/-! ## TxBytes (R159 steps 2 to 4) -/

/-- PT_POLL: waits while TXBF = 1; with P_SRC = LEN it takes the byte from LENBUF (R163). -/
def stepPtPoll (s : State) : Except Fault State :=
  (regRead s s.pCh.toNat .status).bind fun (v, s) =>
    if Status.txbf v then .ok s
    else
      match s.pSrc with
      | .len =>
        match s.lenBuf.get? s.pIdx.toNat with
        | some b => .ok { s with pD := b, pphase := .ptWrite }
        | none => .error .lenBufIndex
      | .mem _ | .null => .ok { s with pphase := .ptFetch }

/-- PT_FETCH: one byte of caller memory. -/
def stepPtFetch (s : State) : Except Fault State :=
  match s.pSrc with
  | .mem a => (memRead s (byteAddr a s.pIdx)).bind fun b => .ok { s with pD := b, pphase := .ptWrite }
  | .len | .null => .error .strayPhase

/-- PT_WRITE: the byte goes to TXREG. -/
def stepPtWrite (w1 w2 : Word) (s : State) : Except Fault State :=
  (regWrite s s.pCh.toNat .txreg (s.pD.setWidth 32)).bind fun s => advance .ptPoll w1 w2 s

/-! ## RxBytes (R164 steps 2 to 7) -/

/-- The error-merge branch of PR_POLL, for the byte whose summary bits are `e` (R164, R167, R170, R171). -/
def mergeErrors (e : Byte) (s : State) : State :=
  match s.pErr with
  | .sum => { s with pE := e, errSum := s.errSum ||| e, pphase := .prRead }
  | .mem _ => { s with pE := e, pphase := if e = 0#8 then .prRead else .prMrd }
  | .none => { s with pE := e, pphase := .prRead }

/-- PR_POLL: one STATUS read, latched in P_S; with RXDA = 0 it goes to clear an overrun or waits (R164, R165, R168;
notes/assumptions/15.md). -/
def stepPrPoll (s : State) : Except Fault State :=
  (regRead s s.pCh.toNat .status).bind fun (v, s) =>
    let s := { s with pS := v }
    if Status.rxda v then .ok (mergeErrors (errBits (Status.perr v) (Status.ferr v)) s)
    else if Status.oerr v then .ok { s with pphase := .prClear }
    else .ok s

/-- PR_CLEAR: the overrun clear (R168). -/
def stepPrClear (s : State) : Except Fault State :=
  (regWrite s s.pCh.toNat .status (overrunClear s.pS)).bind fun s => .ok { s with pphase := .prPoll }

/-- PR_MRD: the caller's error byte is read (R170). -/
def stepPrMrd (s : State) : Except Fault State :=
  match s.pErr with
  | .mem e => (memRead s e.toNat).bind fun b => .ok { s with pD := b, pphase := .prMwr }
  | .none | .sum => .error .strayPhase

/-- PR_MWR: the caller's error byte is written back ORed with P_E (R170). -/
def stepPrMwr (s : State) : Except Fault State :=
  match s.pErr with
  | .mem e => (memWrite s e.toNat (s.pD ||| s.pE)).bind fun s => .ok { s with pphase := .prRead }
  | .none | .sum => .error .strayPhase

/-- PR_READ: one byte from RXREG, to be stored, kept in LENBUF or dropped (R164, R169, R171). -/
def stepPrRead (w1 w2 : Word) (s : State) : Except Fault State :=
  (regRead s s.pCh.toNat .rxreg).bind fun (v, s) =>
    let s := { s with pD := v.extractLsb' 0 8 }
    match s.pSrc with
    | .mem _ => .ok { s with pphase := .prStore }
    | .len =>
      match s.lenBuf.set? s.pIdx.toNat s.pD with
      | some b => advance .prPoll w1 w2 { s with lenBuf := b }
      | none => .error .lenBufIndex
    | .null => advance .prPoll w1 w2 s

/-- PR_STORE: the byte goes to the buffer (R169). -/
def stepPrStore (w1 w2 : Word) (s : State) : Except Fault State :=
  match s.pSrc with
  | .mem b => (memWrite s (byteAddr b s.pIdx) s.pD).bind fun s => advance .prPoll w1 w2 s
  | .len | .null => .error .strayPhase

/-! ## The next step of an operation in progress -/

/-- The port engine's step, which PPHASE names (R42). -/
def portStep (w1 w2 : Word) (s : State) : Except Fault State :=
  match s.pphase with
  | .idle => .error .strayPhase
  | .pi1 => initWrite .mode 0x00000000#32 .pi2 s
  | .pi2 => initWrite .status 0x00000000#32 .pi3 s
  | .pi3 => initWrite .brg (s.pBrg.setWidth 32) .pi4 s
  | .pi4 => initWrite .mode 0x00000001#32 .pi5 s
  | .pi5 => stepPi5 w1 w2 s
  | .ptPoll => stepPtPoll s
  | .ptFetch => stepPtFetch s
  | .ptWrite => stepPtWrite w1 w2 s
  | .prPoll => stepPrPoll s
  | .prClear => stepPrClear s
  | .prMrd => stepPrMrd s
  | .prMwr => stepPrMwr s
  | .prRead => stepPrRead w1 w2 s
  | .prStore => stepPrStore w1 w2 s

/-- CT_ENCODE: the transform over the packet, then the start of the length prefix on the configuration's channel (R197). -/
def stepCtEncode (a n : Word) (s : State) : Except Fault State :=
  match s.params.configs[s.curCfg.toNat]? with
  | none => .error .noConfig
  | some g =>
    (transformRange s .encode a.toNat n.toNat).bind fun s => .ok (startTx g.channel .len 4#32 { s with fphase := .ctLen })

/-- CR_DECODE: the transform over the stored bytes (R202, R208). -/
def stepCrDecode (b : Word) (s : State) : Except Fault State :=
  (transformRange s .decode b.toNat s.recvLen.toNat).bind fun s => .ok { s with fphase := .crResult }

/-- CR_RESULT: RES0 and RES1, and the operation completes (R202, R205). -/
def stepCrResult (s : State) : State :=
  complete { s with res0 := s.pktLen, res1 := s.errSum.setWidth 32 }

/-- The step after step 1 that FPHASE and PPHASE name (R44). -/
def continueOp (w1 w2 : Word) (s : State) : Except Fault State :=
  match s.fphase with
  | .ctEncode => stepCtEncode w1 w2 s
  | .crDecode => stepCrDecode w1 s
  | .crResult => .ok (stepCrResult s)
  | .none | .ctLen | .ctPayload | .crLen | .crPayload | .crDrain => portStep w1 w2 s

end Sys2Proof.Machine
end

