-- ==== Sys2Proof/Machine/Framing.lean ====
section
/-! DEFINITION. The meanings of the three Framing Layer operations (spec/41_framing.md): one sequencer step each (R12),
step 1 at the start of the operation and afterwards the step that FPHASE and PPHASE name (R44). -/

namespace Sys2Proof.Machine

/-- Step 1 of CH_INIT on configuration k: step 1 of PORT_INIT on its channel (R195). -/
def acceptChInit (k : Nat) (baud : Word) (s : State) : State :=
  match findConfig s.params k with
  | .error (cause, info) => raiseFault cause info s
  | .ok g => acceptInit g.channel.toNat baud s

/-- Step 1 of CH_TX on configuration k (R197, R198). -/
def acceptChTx (k : Nat) (a n : Word) (s : State) : State :=
  match findConfig s.params k with
  | .error (cause, info) => raiseFault cause info s
  | .ok g =>
    match checkTx s g.channel.toNat a n with
    | .error (cause, info) => raiseFault cause info s
    | .ok () =>
      let t := { s with curCfg := BitVec.ofNat 8 k, lenBuf := serialise s.params.nativeOrder n }
      if g.transform.isSome then { t with fphase := .ctEncode }
      else startTx g.channel .len 4#32 { t with fphase := .ctLen }

/-- Step 1 of CH_RX on configuration k (R202). -/
def acceptChRx (k : Nat) (b m : Word) (s : State) : State :=
  match findConfig s.params k with
  | .error (cause, info) => raiseFault cause info s
  | .ok g =>
    match checkChRx s g.channel.toNat b m with
    | .error (cause, info) => raiseFault cause info s
    | .ok () =>
      startRx g.channel .len 4#32 .sum { s with curCfg := BitVec.ofNat 8 k, errSum := 0#8, fphase := .crLen }

/-- CH_INIT (R195). -/
def execChInit (cfg : Nat) (baud : Word) (s : State) : Host.Outcome State Fault Refusal :=
  if s.atStart then .next (acceptChInit cfg baud s) else toOutcome (continueOp baud 0#32 s)

/-- CH_TX (R197). -/
def execChTx (cfg : Nat) (pkt len : Word) (s : State) : Host.Outcome State Fault Refusal :=
  if s.atStart then .next (acceptChTx cfg pkt len s) else toOutcome (continueOp pkt len s)

/-- CH_RX (R202). -/
def execChRx (cfg : Nat) (buf blen : Word) (s : State) : Host.Outcome State Fault Refusal :=
  if s.atStart then .next (acceptChRx cfg buf blen s) else toOutcome (continueOp buf blen s)

end Sys2Proof.Machine
end

