-- ==== Sys2Proof/Machine/PortDriver.lean ====
section
/-! DEFINITION. The meanings of the three Port Driver operations (spec/40_port_driver.md): one sequencer step each (R12),
step 1 at the start of the operation and afterwards the step that FPHASE and PPHASE name (R44). -/

namespace Sys2Proof.Machine

/-- Step 1 of PORT_TX on channel c (R159). -/
def acceptPortTx (c : Nat) (a n : Word) (s : State) : State :=
  match checkTx s c a n with
  | .error (cause, info) => raiseFault cause info s
  | .ok () =>
    let t := startTx (BitVec.ofNat 8 c) (.mem a) n s
    if n = 0#32 then complete t else t

/-- Step 1 of PORT_RX on channel c (R164). -/
def acceptPortRx (c : Nat) (b n e : Word) (s : State) : State :=
  match checkPortRx s c b n e with
  | .error (cause, info) => raiseFault cause info s
  | .ok () =>
    let t := startRx (BitVec.ofNat 8 c) (sinkOf b) n (errTargetOf e) s
    if n = 0#32 then complete t else t

/-- PORT_INIT (R155). -/
def execPortInit (ch : Nat) (baud : Word) (s : State) : Host.Outcome State Fault Refusal :=
  if s.atStart then .next (acceptInit ch baud s) else toOutcome (continueOp baud 0#32 s)

/-- PORT_TX (R159). -/
def execPortTx (ch : Nat) (data len : Word) (s : State) : Host.Outcome State Fault Refusal :=
  if s.atStart then .next (acceptPortTx ch data len s) else toOutcome (continueOp data len s)

/-- PORT_RX (R164). -/
def execPortRx (ch : Nat) (buf len err : Word) (s : State) : Host.Outcome State Fault Refusal :=
  if s.atStart then .next (acceptPortRx ch buf len err s) else toOutcome (continueOp buf len s)

end Sys2Proof.Machine
end

