-- ==== Sys2Proof/Machine/Dispatch.lean ====
section
/-! DEFINITION. One arm per operation: its meaning. -/

namespace Sys2Proof.Machine

def exec (i : Instr) (s : State) : Host.Outcome State Fault Refusal :=
  match i with
  | .portInit ch baud => Sys2Proof.Machine.execPortInit ch baud s
  | .portTx ch data len => Sys2Proof.Machine.execPortTx ch data len s
  | .portRx ch buf len err => Sys2Proof.Machine.execPortRx ch buf len err s
  | .chInit cfg baud => Sys2Proof.Machine.execChInit cfg baud s
  | .chTx cfg pkt len => Sys2Proof.Machine.execChTx cfg pkt len s
  | .chRx cfg buf blen => Sys2Proof.Machine.execChRx cfg buf blen s

end Sys2Proof.Machine
end

