-- ==== Sys2Proof/Machine/Agents.lean ====
section
/-! DEFINITION. The moves of the agents (spec/10_state.md R30): the sequencer's turn, the host's protocol
(spec/60_exceptions.md R232, R233), the line agents (spec/20_memory.md R95 to R98) and the platform's reset (R260). -/

namespace Sys2Proof.Machine

/-! ## The sequencer -/

/-- The fault a decode error raises (R130, R235). -/
def decodeFault : DecodeError → FaultInfo
  | .illegalOp w => (.illegalOp, w)
  | .reservedField w => (.reservedField, w)

/-- The sequencer's turn: it has a step only while BSTAT.STATE = BUSY (R233, R237), and that step is one of the operation
that D0 to D3 encode; a descriptor that encodes none raises its decode fault (R130; notes/assumptions/13.md). -/
def sequencerTurn (s : State) : Host.Outcome State Fault Refusal :=
  match s.bstat with
  | .busy =>
    match decode s.descriptor with
    | .ok i => exec i s
    | .error e => .next (raiseFault (decodeFault e).1 (decodeFault e).2 s)
  | .idle | .faulted => .next s

/-! ## The host -/

/-- `ISSUE(w0, w1, w2, w3)` (R233). -/
def issue (d : Descriptor) (s : State) : State :=
  match s.bstat with
  | .idle => latch d s
  | .busy => raiseFault .issueBusy d.w0 s
  | .faulted => s

/-- The operation in progress names the caller-memory byte at address a (R105). The model's choice where R105 leaves it
open: a descriptor that encodes no operation, in the turn before its step 1 faults, names no byte
(DESIGN CHOICE, notes/assumptions/8.md). -/
def busyByte (s : State) (a : Nat) : Bool :=
  match s.bstat with
  | .busy =>
    match decode s.descriptor with
    | .ok i => (namedRanges i).any fun r => decide (r.1 ≤ a ∧ a < r.1 + r.2)
    | .error _ => false
  | .idle | .faulted => false

/-- The host's read of a byte of caller memory, which the duty of R105 forbids on the buffers of an operation in
progress. -/
def hostLoad (a : Word) (s : State) : Host.Outcome State Fault Refusal :=
  if busyByte s a.toNat then .refused .hostBusyBuffer
  else .next { s with hostData := (Memory.read s.mem a.toNat).setWidth 32 }

/-- The host's write of a byte of caller memory, under the same duty (R105). -/
def hostStore (a : Word) (v : Byte) (s : State) : Host.Outcome State Fault Refusal :=
  if busyByte s a.toNat then .refused .hostBusyBuffer
  else .next { s with mem := Memory.write s.mem a.toNat v }

/-! ## The line agents -/

/-- `L_TX` on its channel: with ON = 1, TXEN = 1 and a byte to send, the head of the transmit buffer goes to the wire; it
is not enabled otherwise, and nothing happens (R96). -/
def Channel.lineTx (ch : Channel) : Channel :=
  if ch.on ∧ ch.txen then
    match ch.txbuf with
    | b :: rest => { ch with txbuf := rest, wireOut := ch.wireOut ++ [b] }
    | [] => ch
  else ch

/-- `L_RX` on its channel (R97). -/
def Channel.lineRx (rxDepth : Nat) (e : RxEntry) (ch : Channel) : Channel :=
  if ch.on ∧ ch.rxen ∧ ch.oerr = false then
    if ch.rxfifo.length < rxDepth then { ch with rxfifo := ch.rxfifo ++ [e] } else { ch with oerr := true }
  else ch

/-- `L_TX(c)`. -/
def lineTx (c : Nat) (s : State) : Host.Outcome State Fault Refusal :=
  match s.chan? c with
  | some ch => .next (s.setChan c ch.lineTx)
  | none => .refused .noLineAgent

/-- `L_RX(c, b, pe, fe)`. -/
def lineRx (c : Nat) (e : RxEntry) (s : State) : Host.Outcome State Fault Refusal :=
  match s.chan? c with
  | some ch => .next (s.setChan c (ch.lineRx s.params.rxDepth e))
  | none => .refused .noLineAgent

/-! ## Any move -/

/-- The effect of a move. -/
def applyMove (m : Move) (s : State) : Host.Outcome State Fault Refusal :=
  match m with
  | .sequencer => sequencerTurn s
  | .issue w0 w1 w2 w3 => .next (issue ⟨w0, w1, w2, w3⟩ s)
  | .hostRead r => .next { s with hostData := s.hostReg r }
  | .hostLoad a => hostLoad a s
  | .hostStore a v => hostStore a v s
  | .lineTx c => lineTx c s
  | .lineRx c b pe fe => lineRx c ⟨b, pe, fe⟩ s
  | .reset draws => .next (blockReset draws s)

/-- The move of the agent whose turn it is when none is pending: the sequencer's, or a line agent's L_TX. L_RX never
comes up by itself, since it has no fairness (R98). -/
def turnMove (turn : Nat) : Move :=
  match turn with
  | 0 => .sequencer
  | c + 1 => .lineTx (c + 1)

/-- The next agent in turn: the sequencer and then the line agents of the channels, round and round, so that a step that
stays enabled is taken (R96, R274; notes/assumptions/5.md). -/
def nextTurn (nChannels turn : Nat) : Nat := if turn < nChannels then turn + 1 else 0

/-- The move that comes next, and the machine that has taken it off the schedule. -/
def schedule (s : State) : Move × State :=
  match s.pending with
  | m :: rest => (m, { s with pending := rest })
  | [] => (turnMove s.turn, { s with turn := nextTurn s.params.nChannels s.turn })

/-- The machine made ready to run the operation with descriptor d in its very next step: the descriptor latched as an
accepted ISSUE latches it (R233), and the sequencer's turn put first. -/
def withOperation (d : Descriptor) (s : State) : State :=
  { latch d s with pending := .sequencer :: s.pending }

end Sys2Proof.Machine
end

