-- ==== Sys2Proof/Machine/Step.lean ====
section
/-! DEFINITION. One step of the whole machine: the next agent's move. -/

namespace Sys2Proof.Machine

/-- One step: the first pending move, or the move of the agent whose turn it is (R12, R30, R102; notes/assumptions/4.md
and 5.md). -/
def step (s : State) : Host.Outcome State Fault Refusal := applyMove (schedule s).1 (schedule s).2

/-- The machine whose next step runs the operation whose descriptor has the low `nbits` bits of `w` and 0 above them
(notes/assumptions/17.md). -/
def State.withFetchWord (s : State) (nbits w : Nat) : State := withOperation (Descriptor.ofNat (w % 2 ^ nbits)) s

end Sys2Proof.Machine
end

