-- ==== Sys2Proof/Machine/Assembler.lean ====
section
/-! DEFINITION. The assembler of spec/30_encoding.md R134 and R135: one operation a line, `;` starts a comment, operands
are decimal or `0x` hexadecimal numbers or `null`, and `port.drain` is `port.rx` into the discard sink. Where the spec
leaves the layout of a line open, notes/assumptions/25.md says what is taken. -/

namespace Sys2Proof.Machine

/-- The blanks of a line. -/
def isBlank (c : Char) : Bool := c = ' ' || c = '\t'

/-- A text without the blanks at its two ends. -/
def trimBlanks (l : List Char) : List Char := ((l.dropWhile isBlank).reverse.dropWhile isBlank).reverse

/-- A text cut at every separator. -/
def cutAt (sep : Char) : List Char → List (List Char)
  | [] => [[]]
  | c :: cs =>
    if c = sep then [] :: cutAt sep cs
    else
      match cutAt sep cs with
      | p :: ps => (c :: p) :: ps
      | [] => [[c]]

/-- The value of a digit, decimal or hexadecimal in either case. -/
def digitOf (c : Char) : Option Nat :=
  if '0' ≤ c ∧ c ≤ '9' then some (c.toNat - '0'.toNat)
  else if 'a' ≤ c ∧ c ≤ 'f' then some (c.toNat - 'a'.toNat + 10)
  else if 'A' ≤ c ∧ c ≤ 'F' then some (c.toNat - 'A'.toNat + 10)
  else none

/-- The number that digits of a base write, on top of what stood before them. -/
def digitsFrom (base acc : Nat) : List Char → Option Nat
  | [] => some acc
  | c :: cs =>
    match digitOf c with
    | some d => if d < base then digitsFrom base (acc * base + d) cs else none
    | none => none

/-- An operand: `null` for 0, a `0x` hexadecimal or a decimal number (R134). -/
def operandOf : List Char → Option Nat
  | ['n', 'u', 'l', 'l'] => some 0
  | '0' :: 'x' :: c :: cs => digitsFrom 16 0 (c :: cs)
  | c :: cs => digitsFrom 10 0 (c :: cs)
  | [] => none

/-- The operands of a line, in order. -/
def operandsOf : List (List Char) → Option (List Nat)
  | [] => some []
  | p :: ps =>
    match operandOf (trimBlanks p), operandsOf ps with
    | some n, some ns => some (n :: ns)
    | _, _ => none

/-- The mnemonics of R134 and R135. -/
inductive AsmOp where
  | portInit
  | portTx
  | portRx
  | portDrain
  | chInit
  | chTx
  | chRx
deriving DecidableEq, Repr

/-- The mnemonic a text is. -/
def asmOpOf (l : List Char) : Option AsmOp :=
  if l = ['p', 'o', 'r', 't', '.', 'i', 'n', 'i', 't'] then some .portInit
  else if l = ['p', 'o', 'r', 't', '.', 't', 'x'] then some .portTx
  else if l = ['p', 'o', 'r', 't', '.', 'r', 'x'] then some .portRx
  else if l = ['p', 'o', 'r', 't', '.', 'd', 'r', 'a', 'i', 'n'] then some .portDrain
  else if l = ['c', 'h', '.', 'i', 'n', 'i', 't'] then some .chInit
  else if l = ['c', 'h', '.', 't', 'x'] then some .chTx
  else if l = ['c', 'h', '.', 'r', 'x'] then some .chRx
  else none

/-- An operand other than a target must fit 32 bits (R134). -/
def wordOperand (n : Nat) : Option Word := if n < 4294967296 then some (BitVec.ofNat 32 n) else none

/-- The operation that a mnemonic and its operands make; `port.drain <ch>, <len>` is `port.rx <ch>, null, <len>, null`
(R134, R135). -/
def operationOf : AsmOp → List Nat → Option Instr
  | .portInit, [c, x] => (wordOperand x).map (.portInit c)
  | .portTx, [c, x, y] => (wordOperand x).bind fun a => (wordOperand y).map (.portTx c a)
  | .portRx, [c, x, y, z] =>
    (wordOperand x).bind fun b => (wordOperand y).bind fun n => (wordOperand z).map (.portRx c b n)
  | .portDrain, [c, y] => (wordOperand y).map fun n => .portRx c 0#32 n 0#32
  | .chInit, [k, x] => (wordOperand x).map (.chInit k)
  | .chTx, [k, x, y] => (wordOperand x).bind fun a => (wordOperand y).map (.chTx k a)
  | .chRx, [k, x, y] => (wordOperand x).bind fun b => (wordOperand y).map (.chRx k b)
  | _, _ => none

/-- A line without its comment (R134). -/
def codeOf (l : List Char) : List Char := trimBlanks (l.takeWhile (· ≠ ';'))

/-- The operation a line names; one whose target does not fit 8 bits is rejected (R134). -/
def parseLine (l : List Char) : Option Instr :=
  let code := codeOf l
  match asmOpOf (code.takeWhile (!isBlank ·)), operandsOf (cutAt ',' (code.dropWhile (!isBlank ·))) with
  | some op, some ns => (operationOf op ns).bind fun i => if i.wf then some i else none
  | _, _ => none

/-- The descriptors of a program text, one line an operation; lines that hold no code are passed over. -/
def assembleLines : List (List Char) → Option (List Descriptor)
  | [] => some []
  | l :: ls =>
    if codeOf l = [] then assembleLines ls
    else
      match parseLine l, assembleLines ls with
      | some i, some ds => some (encode i :: ds)
      | _, _ => none

/-- The descriptors of a program text (R134, R135). -/
def assembleText (t : List Char) : Option (List Descriptor) := assembleLines (cutAt '\n' t)

end Sys2Proof.Machine
end

