-- ==== Sys2Proof/Safety.lean ====
section
/-! DEFINITION. What counts as a safe run of AUART-CORE, runs of many steps, the schedules that the statements about runs
use, and the invariant of the machine. -/

namespace Sys2Proof.Machine

/-! ## Runs -/

/-- k steps of the whole machine, stopping at the first fault or refusal. -/
def steps : Nat → State → Host.Outcome State Fault Refusal
  | 0, s => .next s
  | k + 1, s =>
    match step s with
    | .next t => steps k t
    | .fault f => .fault f
    | .refused r => .refused r

/-- A state reached from a state by some number of steps. -/
def Reaches (s t : State) : Prop := ∃ k, steps k s = .next t

/-- A run is safe while no fatal fault has been taken: "a FAULTED state is never a successful end of a run" (R237). -/
abbrev State.safe (s : State) : Prop := s.bstat ≠ .faulted

/-- An operation has ended well: the block is IDLE (R234). -/
abbrev State.done (s : State) : Prop := s.bstat = .idle

/-! ## Schedules -/

/-- n turns of the sequencer, with no other agent between them. -/
def turns (n : Nat) : List Move := List.replicate n .sequencer

/-- The TX-prompt schedule of spec/95_test_vectors.md for the bytes of one transfer: per byte the sequencer's steps
(`k` of them: 3 from caller memory, 2 from LENBUF), the last of which writes TXREG, and then L_TX(c). -/
def promptBytes (c k : Nat) : Nat → List Move
  | 0 => []
  | n + 1 => turns k ++ [.lineTx c] ++ promptBytes c k n

/-- The JIT schedule of spec/95_test_vectors.md for a list of arrivals: each is delivered just before the poll that finds
it, and `k e` sequencer steps receive it. -/
def jitBytes (c : Nat) (k : RxEntry → Nat) : List RxEntry → List Move
  | [] => []
  | e :: es => .lineRx c e.data e.pe e.fe :: (turns (k e) ++ jitBytes c k es)

/-! ## What a receive does to caller memory and to the summary -/

/-- The summary bits of an arrival (R167). -/
def RxEntry.bits (e : RxEntry) : Byte := errBits e.pe e.fe

/-- The OR of the summary bits of a list of arrivals (R207). -/
def summaryOf (es : List RxEntry) : Byte := es.foldl (fun acc e => acc ||| e.bits) 0#8

/-- Caller memory after the byte of index i of a PORT_RX: the error byte is merged where there is one and the byte has an
error, and then the byte is stored where there is a buffer (R164, R169, R170). -/
def receiveByte (b e : Word) (i : Nat) (m : List Host.Cell) (x : RxEntry) : List Host.Cell :=
  let m := if e = 0#32 ∨ x.bits = 0#8 then m else Memory.write m e.toNat (Memory.read m e.toNat ||| x.bits)
  if b = 0#32 then m else Memory.write m (b.toNat + i) x.data

/-- Caller memory after a PORT_RX has received a list of arrivals, from index i on. -/
def receiveBytes (b e : Word) (i : Nat) (m : List Host.Cell) : List RxEntry → List Host.Cell
  | [] => m
  | x :: xs => receiveBytes b e (i + 1) (receiveByte b e i m x) xs

/-- The sequencer steps that one arrival of a PORT_RX takes: the poll, the two merge steps where the error byte is merged,
the read, and the store where there is a buffer (R164). -/
def receiveSteps (b e : Word) (x : RxEntry) : Nat :=
  2 + (if e = 0#32 ∨ x.bits = 0#8 then 0 else 2) + (if b = 0#32 then 0 else 1)

/-! ## The invariant -/

/-- The init phases PI_1 to PI_5. -/
def PPhase.isInit : PPhase → Bool
  | .pi1 | .pi2 | .pi3 | .pi4 | .pi5 => true
  | _ => false

/-- The transmit phases PT_POLL, PT_FETCH and PT_WRITE. -/
def PPhase.isTx : PPhase → Bool
  | .ptPoll | .ptFetch | .ptWrite => true
  | _ => false

/-- The receive phases PR_POLL to PR_STORE. -/
def PPhase.isRx : PPhase → Bool
  | .prPoll | .prClear | .prMrd | .prMwr | .prRead | .prStore => true
  | _ => false

/-- The peripheral of a READY channel transmits and receives (R158, R162). -/
abbrev Channel.enabled (ch : Channel) : Prop := ch.on = true ∧ ch.txen = true ∧ ch.rxen = true

/-- The parts of the state keep their forms: legal parameters (R7), N_CHANNELS channels (R46) with FIFOs inside their
depths (R63, R64), caller memory in its canonical form, the summary registers without bits 7 to 2 (R35, R49), and a
turn that is the sequencer's or a channel's. -/
abbrev State.shapeOk (s : State) : Prop :=
  s.params.legal ∧ s.chans.length = s.params.nChannels ∧
  (∀ ch ∈ s.chans, ch.rxfifo.length ≤ s.params.rxDepth ∧ ch.txbuf.length ≤ s.params.txDepth) ∧
  Memory.wf s.mem = true ∧ s.errSum < 4#8 ∧ s.pE < 4#8 ∧ s.res1 < 4#32 ∧
  s.turn ≤ s.params.nChannels

/-- FCAUSE and FINFO are 0 while no fault has been taken (R37, R38), and an operation's phases are idle while none is in
progress (R233, R234, R236). -/
abbrev State.statusOk (s : State) : Prop :=
  (s.bstat = .faulted ↔ s.fcause ≠ none) ∧ (s.bstat ≠ .faulted → s.finfo = 0#32) ∧
  (s.bstat ≠ .busy → s.fphase = .none ∧ s.pphase = .idle)

/-- A READY channel is enabled, unless its init sequence is running again or a fault has abandoned one (R162, R270). -/
abbrev State.readyOk (s : State) : Prop :=
  ∀ k, k < s.chans.length → ∀ ch ∈ s.chans[k]?, ch.chst = .ready →
    ch.enabled ∨ s.bstat = .faulted ∨ (s.bstat = .busy ∧ s.pphase.isInit = true ∧ s.pCh.toNat = k + 1)

/-- What the init sequence of channel c has done so far (R155, R262). -/
def initOk (s : State) (c : Nat) (baud : Word) : Bool :=
  match s.chan? c with
  | none => false
  | some ch =>
    decide (s.fphase = .none ∧ s.pCh.toNat = c ∧ baudDivisor s.params baud = .ok s.pBrg) &&
    match s.pphase with
    | .pi1 => true
    | .pi2 => decide (ch.on = false ∧ ch.oerr = false ∧ ch.rxfifo = [] ∧ ch.txbuf = [])
    | .pi3 =>
      decide (ch.on = false ∧ ch.oerr = false ∧ ch.rxfifo = [] ∧ ch.txbuf = [] ∧ ch.txen = false ∧ ch.rxen = false)
    | .pi4 =>
      decide (ch.on = false ∧ ch.oerr = false ∧ ch.rxfifo = [] ∧ ch.txbuf = [] ∧ ch.txen = false ∧ ch.rxen = false ∧
        ch.div = s.pBrg)
    | .pi5 =>
      decide (ch.on = true ∧ ch.oerr = false ∧ ch.rxfifo = [] ∧ ch.txbuf = [] ∧ ch.txen = false ∧ ch.rxen = false ∧
        ch.div = s.pBrg)
    | _ => false

/-- A source or sink of n bytes that a transfer can use: a range that is not null and does not wrap, LENBUF's four bytes,
or the discard sink where the transfer is a receive (R42, R83). -/
def sourceOk (receive : Bool) (src : Source) (n : Word) : Bool :=
  match src with
  | .mem a => decide (a ≠ 0#32 ∧ a.toNat + n.toNat ≤ 4294967296)
  | .len => decide (n = 4#32)
  | .null => receive

/-- A transmit in progress on channel c, of n bytes from a source (R159, R160). -/
def txOk (s : State) (c : Nat) (src : Source) (n : Word) : Bool :=
  match s.chan? c with
  | none => false
  | some ch =>
    decide (s.pCh.toNat = c ∧ ch.chst = .ready ∧ s.pSrc = src ∧ s.pLen = n ∧ s.pIdx < n) &&
    sourceOk false src n &&
    match s.pphase with
    | .ptPoll => true
    | .ptFetch => decide (src ≠ .len)
    | .ptWrite => decide (ch.txbuf.length < s.params.txDepth)
    | _ => false

/-- The receive FIFO is not empty, and the summary bits of its head are `pE` (R166, R167). -/
def headOk (ch : Channel) (pE : Byte) : Bool :=
  match ch.rxfifo with
  | [] => false
  | x :: _ => decide (pE = x.bits)

/-- A receive in progress on channel c, of n bytes into a sink, with an error target (R164, R166, R168). -/
def rxOk (s : State) (c : Nat) (sink : Source) (n : Word) (err : ErrTarget) : Bool :=
  match s.chan? c with
  | none => false
  | some ch =>
    decide (s.pCh.toNat = c ∧ ch.chst = .ready ∧ s.pSrc = sink ∧ s.pLen = n ∧ s.pIdx < n ∧ s.pErr = err) &&
    sourceOk true sink n &&
    (match err with
      | .mem e => decide (e ≠ 0#32)
      | .none | .sum => true) &&
    match s.pphase with
    | .prPoll => true
    | .prClear => s.pS.getLsbD 8 && s.pS.getLsbD 9
    | .prMrd | .prMwr => (match err with | .mem _ => true | .none | .sum => false) && headOk ch s.pE
    | .prRead => headOk ch s.pE
    | .prStore => (match sink with | .mem _ => true | .len | .null => false)
    | _ => false

/-- The framing state machine of a CH_TX on a configuration (R197, R200). -/
def chTxOk (s : State) (g : ChannelConfig) (a n : Word) : Bool :=
  s.isReady g.channel.toNat &&
  (decide (n = 0#32) || (decide (a ≠ 0#32) && admitted s.params a.toNat n.toNat)) &&
  decide (s.lenBuf = serialise s.params.nativeOrder n) &&
  match s.fphase with
  | .ctEncode => decide (s.pphase = .idle) && g.transform.isSome
  | .ctLen => txOk s g.channel.toNat .len 4#32
  | .ctPayload => txOk s g.channel.toNat (.mem a) n
  | _ => false

/-- The lengths of a CH_RX once the prefix is in: the declared length is LENBUF's, and the stored length is the smaller
of it and the buffer's (R202, R203). -/
def lengthsOk (s : State) (m : Word) : Bool :=
  decide (s.pktLen = assemble s.params.nativeOrder s.lenBuf ∧ s.recvLen = minWord s.pktLen m)

/-- The framing state machine of a CH_RX on a configuration (R202, R206). -/
def chRxOk (s : State) (g : ChannelConfig) (b m : Word) : Bool :=
  s.isReady g.channel.toNat &&
  (decide (m = 0#32) || (decide (b ≠ 0#32) && admitted s.params b.toNat m.toNat)) &&
  match s.fphase with
  | .crLen => rxOk s g.channel.toNat .len 4#32 .sum
  | .crPayload => lengthsOk s m && rxOk s g.channel.toNat (.mem b) s.recvLen .sum
  | .crDrain => lengthsOk s m && rxOk s g.channel.toNat .null (s.pktLen - s.recvLen) .sum
  | .crDecode => lengthsOk s m && decide (s.pphase = .idle) && g.transform.isSome
  | .crResult => lengthsOk s m && decide (s.pphase = .idle)
  | _ => false

/-- The phases of an operation past its step 1 are those of the operation in D0 to D3, on what its step 1 checked. -/
def opOk (s : State) (i : Instr) : Bool :=
  match i with
  | .portInit c baud => initOk s c baud
  | .portTx c a n => decide (s.fphase = .none) && admitted s.params a.toNat n.toNat && txOk s c (.mem a) n
  | .portRx c b n e =>
    decide (s.fphase = .none) && (decide (b = 0#32) || admitted s.params b.toNat n.toNat) &&
      (decide (e = 0#32) || admitted s.params e.toNat 1) && rxOk s c (sinkOf b) n (errTargetOf e)
  | .chInit k baud =>
    match s.params.configs[k]? with
    | some g => initOk s g.channel.toNat baud
    | none => false
  | .chTx k a n =>
    match s.params.configs[k]? with
    | some g => decide (s.curCfg.toNat = k) && chTxOk s g a n
    | none => false
  | .chRx k b m =>
    match s.params.configs[k]? with
    | some g => decide (s.curCfg.toNat = k) && chRxOk s g b m
    | none => false

/-- Where an operation is past its step 1, its phases fit it (R44). -/
def phaseOk (s : State) : Bool :=
  s.atStart ||
  match decode s.descriptor with
  | .ok i => opOk s i
  | .error _ => false

/-- The invariant of the machine. -/
abbrev Inv (s : State) : Prop := s.shapeOk ∧ s.statusOk ∧ s.readyOk ∧ phaseOk s = true

/-- The next move is one that the spec gives its agent: a line agent of a channel that exists (R30), and no host access to
a buffer of the operation in progress (R105). -/
def moveAllowed (s : State) : Move → Bool
  | .lineTx c | .lineRx c _ _ _ => (s.chan? c).isSome
  | .hostLoad a | .hostStore a _ => !busyByte s a.toNat
  | .sequencer | .issue _ _ _ _ | .hostRead _ | .reset _ => true

/-- The next move is allowed: where none is pending the turn must name an agent that exists. -/
def State.nextAllowed (s : State) : Bool := moveAllowed s (schedule s).1

end Sys2Proof.Machine
end

