-- ==== Sys2Proof/Certificates/Slice0/Obligations.lean ====
section
/-! DEFINITION. The statements for the provers. Each docstring names the rules of spec/ that the statement formalises. -/

open Sys2Proof Sys2Proof.Machine

/-! ## Encoding -/

/-- R121 to R130: the descriptor of every well-formed operation decodes to that operation, every operand at every value. -/
def Obligations.DecodeEncodeRoundTrip : Prop :=
  ∀ i : Instr, i.wf = true → decode (encode i) = .ok i

/-- R121 to R131: a descriptor that decodes is the descriptor of the operation it decodes to, so no bit of it is dropped. -/
def Obligations.EncodeDecodeRoundTrip : Prop :=
  ∀ (d : Descriptor) (i : Instr), decode d = .ok i → i.wf = true ∧ encode i = d

/-- R130: the decode, by cases on the numbers in the fields of W0 and on the unused words, in the order written. -/
def Obligations.DecodeReportsFirstFailingCheck : Prop :=
  ∀ d : Descriptor,
    let op := d.w0.toNat % 16
    let tgt := d.w0.toNat / 16 % 256
    let rsv := d.w0.toNat / 4096
    (op ∉ [0x1, 0x2, 0x3, 0x9, 0xA, 0xB] → decode d = .error (.illegalOp d.w0)) ∧
    (op ∈ [0x1, 0x2, 0x3, 0x9, 0xA, 0xB] → rsv ≠ 0 → decode d = .error (.reservedField d.w0)) ∧
    (op ∈ [0x1, 0x9] → rsv = 0 → d.w2 ≠ 0#32 → decode d = .error (.reservedField d.w2)) ∧
    (op ∈ [0x1, 0x9] → rsv = 0 → d.w2 = 0#32 → d.w3 ≠ 0#32 → decode d = .error (.reservedField d.w3)) ∧
    (op ∈ [0x2, 0xA, 0xB] → rsv = 0 → d.w3 ≠ 0#32 → decode d = .error (.reservedField d.w3)) ∧
    (op = 0x1 → rsv = 0 → d.w2 = 0#32 → d.w3 = 0#32 → decode d = .ok (.portInit tgt d.w1)) ∧
    (op = 0x2 → rsv = 0 → d.w3 = 0#32 → decode d = .ok (.portTx tgt d.w1 d.w2)) ∧
    (op = 0x3 → rsv = 0 → decode d = .ok (.portRx tgt d.w1 d.w2 d.w3)) ∧
    (op = 0x9 → rsv = 0 → d.w2 = 0#32 → d.w3 = 0#32 → decode d = .ok (.chInit tgt d.w1)) ∧
    (op = 0xA → rsv = 0 → d.w3 = 0#32 → decode d = .ok (.chTx tgt d.w1 d.w2)) ∧
    (op = 0xB → rsv = 0 → d.w3 = 0#32 → decode d = .ok (.chRx tgt d.w1 d.w2))

/-- R136: the seven encoding examples, from their text and back from their words. -/
def Obligations.EncodingExamples : Prop :=
  assembleText "port.init 1, 9600".toList = some [⟨0x00000011#32, 0x00002580#32, 0#32, 0#32⟩] ∧
  assembleText "port.tx 1, 0x1000, 20".toList = some [⟨0x00000012#32, 0x00001000#32, 0x00000014#32, 0#32⟩] ∧
  assembleText "port.rx 2, null, 4, 0x3000".toList = some [⟨0x00000023#32, 0#32, 0x00000004#32, 0x00003000#32⟩] ∧
  assembleText "port.drain 1, 3".toList = some [⟨0x00000013#32, 0#32, 0x00000003#32, 0#32⟩] ∧
  assembleText "ch.init 0, 115200".toList = some [⟨0x00000009#32, 0x0001C200#32, 0#32, 0#32⟩] ∧
  assembleText "ch.tx 1, 0x1000, 2".toList = some [⟨0x0000001A#32, 0x00001000#32, 0x00000002#32, 0#32⟩] ∧
  assembleText "ch.rx 0, 0x2000, 100".toList = some [⟨0x0000000B#32, 0x00002000#32, 0x00000064#32, 0#32⟩] ∧
  decode ⟨0x00000011#32, 0x00002580#32, 0#32, 0#32⟩ = .ok (.portInit 1 9600#32) ∧
  decode ⟨0x00000012#32, 0x00001000#32, 0x00000014#32, 0#32⟩ = .ok (.portTx 1 0x1000#32 20#32) ∧
  decode ⟨0x00000023#32, 0#32, 0x00000004#32, 0x00003000#32⟩ = .ok (.portRx 2 0#32 4#32 0x3000#32) ∧
  decode ⟨0x00000013#32, 0#32, 0x00000003#32, 0#32⟩ = .ok (.portRx 1 0#32 3#32 0#32) ∧
  decode ⟨0x00000009#32, 0x0001C200#32, 0#32, 0#32⟩ = .ok (.chInit 0 115200#32) ∧
  decode ⟨0x0000001A#32, 0x00001000#32, 0x00000002#32, 0#32⟩ = .ok (.chTx 1 0x1000#32 2#32) ∧
  decode ⟨0x0000000B#32, 0x00002000#32, 0x00000064#32, 0#32⟩ = .ok (.chRx 0 0x2000#32 100#32)

/-! ## The sequencer, the host and faults -/

/-- R12, R130, R233: in the sequencer's turn a BUSY block runs the operation that its descriptor decodes to, whether the turn
is listed or comes up by itself, and a block that is not BUSY has no step. Around `exec` a step only takes the turn off the
schedule. The model's choices in it: the descriptor is decoded at every step of an operation (notes/assumptions/13.md), the
turn that comes up by itself is that of a fixed turn order (5.md), and a listed turn of a block that is not BUSY leaves the
machine as it was (22.md). -/
def Obligations.StepRunsDecodedOperation : Prop :=
  (∀ (s : State) (rest : List Move) (i : Instr), s.pending = .sequencer :: rest → s.bstat = .busy →
    decode s.descriptor = .ok i → step s = exec i { s with pending := rest }) ∧
  (∀ (s : State) (i : Instr), s.pending = [] → s.turn = 0 → s.bstat = .busy → decode s.descriptor = .ok i →
    step s = exec i { s with turn := nextTurn s.params.nChannels 0 }) ∧
  (∀ (s : State) (rest : List Move), s.pending = .sequencer :: rest → s.bstat ≠ .busy →
    step s = .next { s with pending := rest })

/-- R131: an illegal operation code, and a non-zero reserved field or unused word of a legal one, fault at the first step
with the offending word recorded, and nothing else changes. -/
def Obligations.IllegalDescriptorsFault : Prop :=
  ∀ (s : State) (rest : List Move), s.pending = .sequencer :: rest → s.bstat = .busy → s.atStart = true →
    let op := s.d0.toNat % 16
    let faulted := fun (c : Cause) (w : Word) =>
      Host.Outcome.next (φ := Fault) (ρ := Refusal)
        { s with pending := rest, bstat := .faulted, fcause := some c, finfo := w }
    (op ∉ [0x1, 0x2, 0x3, 0x9, 0xA, 0xB] → step s = faulted .illegalOp s.d0) ∧
    (op ∈ [0x1, 0x2, 0x3, 0x9, 0xA, 0xB] → s.d0.toNat / 4096 ≠ 0 → step s = faulted .reservedField s.d0) ∧
    (op ∈ [0x1, 0x9] → s.d0.toNat / 4096 = 0 → s.d2 ≠ 0#32 → step s = faulted .reservedField s.d2) ∧
    (op ∈ [0x1, 0x9] → s.d0.toNat / 4096 = 0 → s.d2 = 0#32 → s.d3 ≠ 0#32 → step s = faulted .reservedField s.d3) ∧
    (op ∈ [0x2, 0xA, 0xB] → s.d0.toNat / 4096 = 0 → s.d3 ≠ 0#32 → step s = faulted .reservedField s.d3)

/-- R233: ISSUE in each of the three states of the block, and that the sequencer has a step only while it is BUSY; that its
turn leaves the machine as it was in the other two states is the model's reading (notes/assumptions/22.md). -/
def Obligations.IssueProtocol : Prop :=
  ∀ (s : State) (w0 w1 w2 w3 : Word) (rest : List Move), s.pending = .issue w0 w1 w2 w3 :: rest →
    (s.bstat = .idle → step s = .next { s with
      pending := rest, d0 := w0, d1 := w1, d2 := w2, d3 := w3, fphase := .none, pphase := .idle, bstat := .busy }) ∧
    (s.bstat = .busy → step s = .next { s with
      pending := rest, bstat := .faulted, fcause := some .issueBusy, finfo := w0, fphase := .none, pphase := .idle }) ∧
    (s.bstat = .faulted → step s = .next { s with pending := rest }) ∧
    (s.bstat ≠ .busy → sequencerTurn s = .next s)

/-- R236, R235, R36 and R37: taking a fault writes BSTAT, FCAUSE, FINFO and the two phases and nothing else, and the host
then reads BSTAT as 2, FINFO as the recorded value and FCAUSE as the code of the cause. -/
def Obligations.FaultEntry : Prop :=
  ∀ (c : Cause) (info : Word) (s : State),
    raiseFault c info s =
      { s with bstat := .faulted, fcause := some c, finfo := info, fphase := .none, pphase := .idle } ∧
    (raiseFault c info s).hostReg .bstat = 2#32 ∧
    (raiseFault c info s).hostReg .finfo = info ∧
    ((raiseFault c info s).hostReg .fcause).toNat =
      match c with
      | .illegalOp => 0x01
      | .reservedField => 0x02
      | .badChannel => 0x03
      | .badConfig => 0x04
      | .notInit => 0x05
      | .baudZero => 0x06
      | .baudRange => 0x07
      | .nullPtr => 0x08
      | .memRange => 0x09
      | .issueBusy => 0x0A

/-- R239, R237: from FAULTED, any number of steps without a reset stays FAULTED with the same cause, the same recorded
value, and the same descriptor and results. -/
def Obligations.FaultedUntilReset : Prop :=
  ∀ (k : Nat) (s t : State), s.bstat = .faulted → (∀ m ∈ s.pending, ∀ draws, m ≠ .reset draws) → steps k s = .next t →
    t.bstat = .faulted ∧ t.fcause = s.fcause ∧ t.finfo = s.finfo ∧ t.descriptor = s.descriptor ∧
    t.res0 = s.res0 ∧ t.res1 = s.res1

/-- R238: a fault taken in an operation's first step leaves everything else as it was, no later step of an operation takes
one, and ISSUE_BUSY abandons an operation where it stands, its effects so far remaining. -/
def Obligations.FaultsArePrecise : Prop :=
  (∀ s t : State, s.bstat = .busy → s.atStart = true → sequencerTurn s = .next t → t.bstat = .faulted →
    ∃ c info, t = { s with bstat := .faulted, fcause := some c, finfo := info }) ∧
  (∀ s t : State, Inv s → s.bstat = .busy → s.atStart = false → sequencerTurn s = .next t → t.bstat ≠ .faulted) ∧
  (∀ (s : State) (d : Descriptor), s.bstat = .busy →
    issue d s = { s with bstat := .faulted, fcause := some .issueBusy, finfo := d.w0, fphase := .none, pphase := .idle })

/-- R67: the block's own state after a reset. -/
def Obligations.BlockResetValues : Prop :=
  ∀ (s : State) (draws : List Draw) (rest : List Move), s.pending = .reset draws :: rest →
    ∃ t, step s = .next t ∧
      t.bstat = .idle ∧ t.fcause = none ∧ t.finfo = 0#32 ∧
      t.d0 = 0#32 ∧ t.d1 = 0#32 ∧ t.d2 = 0#32 ∧ t.d3 = 0#32 ∧ t.res0 = 0#32 ∧ t.res1 = 0#32 ∧
      t.fphase = .none ∧ t.pphase = .idle ∧
      t.pCh = 0#8 ∧ t.pLen = 0#32 ∧ t.pIdx = 0#32 ∧ t.pS = 0#32 ∧ t.pD = 0#8 ∧ t.pE = 0#8 ∧ t.pBrg = 0#16 ∧
      t.pSrc = .null ∧ t.pErr = .none ∧
      t.curCfg = 0#8 ∧ t.lenBuf.toList = [0#8, 0#8, 0#8, 0#8] ∧ t.errSum = 0#8 ∧ t.pktLen = 0#32 ∧ t.recvLen = 0#32 ∧
      t.chans.length = s.params.nChannels ∧ ∀ ch ∈ t.chans, ch.chst = .uninitialized

/-- R68, R69: a reset leaves each channel's peripheral with the drawn values, any values within the depths, its wire
history empty, and caller memory as it was. -/
def Obligations.ResetDrawsPeripherals : Prop :=
  ∀ (s : State) (draws : List Draw) (rest : List Move), s.pending = .reset draws :: rest →
    ∃ t, step s = .next t ∧ t.mem = s.mem ∧ t.params = s.params ∧ t.pending = rest ∧
      (∀ ch ∈ t.chans, ch.wireOut = [] ∧ ch.rxfifo.length ≤ s.params.rxDepth ∧ ch.txbuf.length ≤ s.params.txDepth) ∧
      ∀ (k : Nat) (d : Draw), k < s.params.nChannels → draws[k]? = some d → d.rxfifo.length ≤ s.params.rxDepth →
        d.txbuf.length ≤ s.params.txDepth →
        t.chan? (k + 1) = some ⟨.uninitialized, d.on, d.oerr, d.txen, d.rxen, d.div, d.rxfifo, d.txbuf, []⟩

/-- R36 to R39: a host read delivers the register (BSTAT as its code, FCAUSE as the code of the cause or 0) and has no side
effect. That the machine holds the value delivered is the model's own (notes/assumptions/16.md). -/
def Obligations.HostReadsRegisters : Prop :=
  ∀ (s : State) (r : HostReg) (rest : List Move), s.pending = .hostRead r :: rest →
    step s = .next { s with pending := rest, hostData :=
      match r with
      | .d0 => s.d0
      | .d1 => s.d1
      | .d2 => s.d2
      | .d3 => s.d3
      | .res0 => s.res0
      | .res1 => s.res1
      | .bstat => (match s.bstat with | .idle => 0#32 | .busy => 1#32 | .faulted => 2#32)
      | .fcause => (match s.fcause with | none => 0#32 | some c => c.code.setWidth 32)
      | .finfo => s.finfo }

/-- R105 (spec/93 U7), R31: while the block is BUSY the host can neither read nor write a byte that the operation in
progress names, shown for each operation with operands in memory, and it reaches every other byte, and every byte while the
block is not BUSY; a read delivers the byte and changes nothing else, and a write stores it. The model's choices in it: which
bytes an operation names is read from the rule by inference, and a descriptor that encodes no operation names none
(notes/assumptions/8.md); the value read is kept in hostData (16.md); and the host reaches address 0 and bytes that are not
admitted (21.md). -/
def Obligations.HostKeepsOffBusyBuffers : Prop :=
  ∀ (s : State) (a : Word) (v : Byte) (rest : List Move),
    let load := { s with pending := .hostLoad a :: rest }
    let store := { s with pending := .hostStore a v :: rest }
    let done := step load = .next { s with
        pending := rest, hostData := BitVec.ofNat 32 (Memory.read s.mem a.toNat).toNat } ∧
      step store = .next { s with pending := rest, mem := Memory.write s.mem a.toNat v }
    let within := fun (x n : Word) => x.toNat ≤ a.toNat ∧ a.toNat < x.toNat + n.toNat
    (s.bstat ≠ .busy → done) ∧
    (∀ e, s.bstat = .busy → decode s.descriptor = .error e → done) ∧
    (∀ i, s.bstat = .busy → decode s.descriptor = .ok i →
      let named := match i with
        | .portInit _ _ => False
        | .portTx _ x n => within x n
        | .portRx _ x n e => (x ≠ 0#32 ∧ within x n) ∨ (e ≠ 0#32 ∧ a = e)
        | .chInit _ _ => False
        | .chTx _ x n => within x n
        | .chRx _ x n => within x n
      (named → step load = .refused .hostBusyBuffer ∧ step store = .refused .hostBusyBuffer) ∧ (¬named → done))

/-! ## The peripheral registers and the line agents -/

/-- R87, with R54, R56, R57 and R58: what a read of MODE, STATUS, BRG and TXREG returns, bit by bit for STATUS, and that
none of them changes anything. -/
def Obligations.RegisterReads : Prop :=
  ∀ (s : State) (c : Nat) (ch : Channel), s.chan? c = some ch →
    regRead s c .mode = .ok (if ch.on then 1#32 else 0#32, s) ∧
    regRead s c .brg = .ok (BitVec.ofNat 32 ch.div.toNat, s) ∧
    regRead s c .txreg = .ok (0#32, s) ∧
    ∃ w, regRead s c .status = .ok (w, s) ∧
      (w.getLsbD 0 = true ↔ ch.rxfifo ≠ []) ∧
      w.getLsbD 1 = ch.oerr ∧
      (w.getLsbD 2 = true ↔ ∃ x xs, ch.rxfifo = x :: xs ∧ x.fe = true) ∧
      (w.getLsbD 3 = true ↔ ∃ x xs, ch.rxfifo = x :: xs ∧ x.pe = true) ∧
      (w.getLsbD 4 = true ↔ ch.txbuf.length = s.params.txDepth) ∧
      w.getLsbD 5 = false ∧ w.getLsbD 6 = false ∧ w.getLsbD 7 = false ∧
      w.getLsbD 8 = ch.txen ∧ w.getLsbD 9 = ch.rxen ∧ ∀ k, 10 ≤ k → w.getLsbD k = false

/-- R89: a write of MODE, on a machine where only channel c changes; while ON = 0 the line agent neither sends nor accepts
a byte. -/
def Obligations.ModeWrite : Prop :=
  ∀ (s : State) (c : Nat) (ch : Channel) (v : Word), s.chan? c = some ch →
    (v.getLsbD 0 = true → regWrite s c .mode v = .ok (s.setChan c { ch with on := true })) ∧
    (v.getLsbD 0 = false →
      regWrite s c .mode v = .ok (s.setChan c { ch with on := false, rxfifo := [], txbuf := [], oerr := false })) ∧
    (ch.on = false → ch.lineTx = ch ∧ ∀ e, ch.lineRx s.params.rxDepth e = ch)

/-- R90 and R93: writes of STATUS, BRG and RXREG, on a machine where only channel c changes. -/
def Obligations.StatusAndDivisorWrites : Prop :=
  ∀ (s : State) (c : Nat) (ch : Channel) (v : Word), s.chan? c = some ch →
    (v.getLsbD 1 = false →
      regWrite s c .status v = .ok (s.setChan c { ch with txen := v.getLsbD 8, rxen := v.getLsbD 9, oerr := false })) ∧
    (v.getLsbD 1 = true →
      regWrite s c .status v = .ok (s.setChan c { ch with txen := v.getLsbD 8, rxen := v.getLsbD 9 })) ∧
    regWrite s c .brg v = .ok (s.setChan c { ch with div := BitVec.ofNat 16 (v.toNat % 65536) }) ∧
    regWrite s c .rxreg v = .ok s

/-- R91 and R92: a TXREG write appends where the peripheral is on and has room and is lost otherwise; an RXREG read takes
the head of the FIFO, and with an empty FIFO returns 0 in bits 31 to 8 and changes no register, FIFO or byte of memory (bits
7 to 0 are a free value, and the count of such draws is the model's own, notes/assumptions/7.md). -/
def Obligations.DataRegisters : Prop :=
  ∀ (s : State) (c : Nat) (ch : Channel) (v : Word), s.chan? c = some ch →
    (ch.on = true → ch.txbuf.length < s.params.txDepth →
      regWrite s c .txreg v = .ok (s.setChan c { ch with txbuf := ch.txbuf ++ [BitVec.ofNat 8 (v.toNat % 256)] })) ∧
    (¬(ch.on = true ∧ ch.txbuf.length < s.params.txDepth) → regWrite s c .txreg v = .ok s) ∧
    (∀ x xs, ch.rxfifo = x :: xs →
      regRead s c .rxreg = .ok (BitVec.ofNat 32 x.data.toNat, s.setChan c { ch with rxfifo := xs })) ∧
    (ch.rxfifo = [] → ∃ w, regRead s c .rxreg = .ok (w, { s with draws := s.draws + 1 }) ∧ w.toNat < 256)

/-- R96: L_TX(c) sends the head of the transmit buffer where it is enabled; nothing but channel c's transmit buffer and wire
changes. Where it is not enabled R96 gives no step, and that a listed one leaves the machine as it was is the model's reading
(notes/assumptions/22.md). -/
def Obligations.LineTransmitStep : Prop :=
  ∀ (s : State) (c : Nat) (ch : Channel) (rest : List Move), s.pending = .lineTx c :: rest → s.chan? c = some ch →
    (∀ b bs, ch.on = true → ch.txen = true → ch.txbuf = b :: bs →
      step s = .next ({ s with pending := rest }.setChan c { ch with txbuf := bs, wireOut := ch.wireOut ++ [b] })) ∧
    (¬(ch.on = true ∧ ch.txen = true ∧ ch.txbuf ≠ []) → step s = .next { s with pending := rest })

/-- R97: L_RX(c, b, pe, fe) appends the byte, or sets OERR where the FIFO is full, or loses the byte where the receiver is
off or OERR is set; nothing but channel c's receive FIFO and OERR changes. -/
def Obligations.LineReceiveStep : Prop :=
  ∀ (s : State) (c : Nat) (ch : Channel) (b : Byte) (pe fe : Bool) (rest : List Move),
    s.pending = .lineRx c b pe fe :: rest → s.chan? c = some ch →
    (ch.on = true → ch.rxen = true → ch.oerr = false → ch.rxfifo.length < s.params.rxDepth →
      step s = .next ({ s with pending := rest }.setChan c { ch with rxfifo := ch.rxfifo ++ [(⟨b, pe, fe⟩ : RxEntry)] })) ∧
    (ch.on = true → ch.rxen = true → ch.oerr = false → ¬ch.rxfifo.length < s.params.rxDepth →
      step s = .next ({ s with pending := rest }.setChan c { ch with oerr := true })) ∧
    (¬(ch.on = true ∧ ch.rxen = true ∧ ch.oerr = false) → step s = .next { s with pending := rest })

/-! ## Caller memory, the prefix and the transform -/

/-- R83, R81: an empty range is always admitted; another is admitted where it does not pass 2^32 and MEM_OK holds, and then
it holds no byte at address 0. In every legal state the caller memory that the next step of the operation in progress reads
or writes lies inside a range that the operation names (notes/assumptions/8.md) and that is admitted. -/
def Obligations.AdmittedRanges : Prop :=
  (∀ (p : Params) (a n : Nat),
    admitted p a 0 = true ∧
    (0 < n → (admitted p a n = true ↔ a + n ≤ 2 ^ 32 ∧ memOk p a n = true)) ∧
    (0 < n → admitted p a n = true → ∀ i, i < n → a + i ≠ 0 ∧ a + i < 2 ^ 32)) ∧
  (∀ (s : State) (i : Instr), Inv s → s.bstat = .busy → decode s.descriptor = .ok i →
    ∀ r, r ∈ fetchedRanges i s ∨ r ∈ storedRanges i s →
      ∃ g ∈ namedRanges i, admitted s.params g.1 g.2 = true ∧ g.1 ≤ r.1 ∧ r.1 + r.2 ≤ g.1 + g.2)

/-- R192: the transform of configuration CUR_CFG over [a, a+n) is one step that replaces the n bytes of the range by the
transform's result on them and changes no other byte and nothing else; with n = 0 it has no effect. -/
def Obligations.TransformInPlace : Prop :=
  ∀ (s : State) (g : ChannelConfig) (t : Transform) (d : Dir) (a n : Nat), Memory.wf s.mem = true →
    s.params.configs[s.curCfg.toNat]? = some g → g.transform = some t → a + n ≤ 2 ^ 32 →
    ∃ m, transformRange s d a n = .ok { s with mem := m } ∧ (n = 0 → m = s.mem) ∧
      Memory.readRange m a n = applyTransform t d (Memory.readRange s.mem a n) ∧
      ∀ x, x < a ∨ a + n ≤ x → Memory.read m x = Memory.read s.mem x

/-- R194: ADD26 is byte-wise, adds 26 modulo 256 on encode and 230 on decode, and decode undoes encode. -/
def Obligations.Add26Transform : Prop :=
  ∀ bs : List Byte,
    applyTransform .add26 .encode bs = bs.map (fun b => BitVec.ofNat 8 ((b.toNat + 26) % 256)) ∧
    applyTransform .add26 .decode bs = bs.map (fun b => BitVec.ofNat 8 ((b.toNat + 230) % 256)) ∧
    applyTransform .add26 .decode (applyTransform .add26 .encode bs) = bs

/-- R84: the bytes of the length prefix in each byte order, and that assembling undoes serialising and the other way round. -/
def Obligations.LengthPrefixByteOrder : Prop :=
  ∀ (l : Word) (b : LenBuf),
    (∀ i, i < 4 → (serialise .little l).get? i = some (BitVec.ofNat 8 (l.toNat / 2 ^ (8 * i) % 256))) ∧
    (∀ i, i < 4 → (serialise .big l).get? i = some (BitVec.ofNat 8 (l.toNat / 2 ^ (24 - 8 * i) % 256))) ∧
    (∀ o, assemble o (serialise o l) = l) ∧
    (∀ o, serialise o (assemble o b) = b)

/-! ## PORT_INIT and CH_INIT -/

/-- R153: the divisor check accepts a baud rate exactly where 8 ≤ PCLK_HZ / baud ≤ 1,048,583, with the divisor of R152, and
at 80 MHz exactly the rates 77 to 10,000,000; baud = 0 is BAUD_ZERO and any other rate is BAUD_RANGE. -/
def Obligations.BaudDivisorRange : Prop :=
  ∀ (p : Params) (baud : Word),
    (baud = 0#32 → baudDivisor p baud = .error (.baudZero, 0#32)) ∧
    (baud ≠ 0#32 → 8 ≤ p.pclkHz / baud.toNat → p.pclkHz / baud.toNat ≤ 1048583 →
      baudDivisor p baud = .ok (BitVec.ofNat 16 ((p.pclkHz / baud.toNat + 8) / 16 - 1)) ∧
      (p.pclkHz / baud.toNat + 8) / 16 - 1 ≤ 0xFFFF) ∧
    (baud ≠ 0#32 → ¬(8 ≤ p.pclkHz / baud.toNat ∧ p.pclkHz / baud.toNat ≤ 1048583) →
      baudDivisor p baud = .error (.baudRange, baud)) ∧
    (p.pclkHz = 80000000 → ((∃ d, baudDivisor p baud = .ok d) ↔ 77 ≤ baud.toNat ∧ baud.toNat ≤ 10000000))

/-- R155 step 1 and R195: on a channel that exists and a baud rate whose divisor fits, PORT_INIT and CH_INIT write P_CH,
P_BRG and PPHASE, and nothing else. -/
def Obligations.InitOperationsAccept : Prop :=
  ∀ (s : State) (c k : Nat) (g : ChannelConfig) (baud : Word), s.atStart = true → 1 ≤ c → c ≤ s.params.nChannels →
    baud ≠ 0#32 → 1 ≤ (s.params.pclkHz / baud.toNat + 8) / 16 → (s.params.pclkHz / baud.toNat + 8) / 16 ≤ 65536 →
    let t := { s with
      pCh := BitVec.ofNat 8 c, pBrg := BitVec.ofNat 16 ((s.params.pclkHz / baud.toNat + 8) / 16 - 1), pphase := .pi1 }
    exec (.portInit c baud) s = .next t ∧
    (s.params.configs[k]? = some g → g.channel.toNat = c → exec (.chInit k baud) s = .next t)

/-- R155 step 1, R195, R150, R153 and the order of R240: where PORT_INIT and CH_INIT fault. -/
def Obligations.InitOperationsFault : Prop :=
  ∀ (s : State) (c k : Nat) (g : ChannelConfig) (baud : Word), s.atStart = true →
    (s.params.configs.length ≤ k → exec (.chInit k baud) s = .next (raiseFault .badConfig (BitVec.ofNat 32 k) s)) ∧
    (s.params.configs[k]? = some g → g.channel.toNat = c → exec (.chInit k baud) s = exec (.portInit c baud) s) ∧
    (c = 0 ∨ s.params.nChannels < c → exec (.portInit c baud) s = .next (raiseFault .badChannel (BitVec.ofNat 32 c) s)) ∧
    (1 ≤ c → c ≤ s.params.nChannels → baud = 0#32 →
      exec (.portInit c baud) s = .next (raiseFault .baudZero 0#32 s)) ∧
    (1 ≤ c → c ≤ s.params.nChannels → baud ≠ 0#32 →
      (s.params.pclkHz / baud.toNat + 8) / 16 = 0 ∨ 65536 < (s.params.pclkHz / baud.toNat + 8) / 16 →
      exec (.portInit c baud) s = .next (raiseFault .baudRange baud s))

/-- R156 and R155 steps 2 to 6: the five register writes of the init sequence in their order, each on channel P_CH alone. -/
def Obligations.InitSequenceSteps : Prop :=
  ∀ (s : State) (i : Instr) (c : Nat) (baud : Word) (ch : Channel), i = .portInit c baud ∨ i = .chInit c baud →
    s.fphase = .none → s.chan? s.pCh.toNat = some ch →
    (s.pphase = .pi1 → exec i s = .next
      ({ s with pphase := .pi2 }.setChan s.pCh.toNat { ch with on := false, rxfifo := [], txbuf := [], oerr := false })) ∧
    (s.pphase = .pi2 → exec i s = .next
      ({ s with pphase := .pi3 }.setChan s.pCh.toNat { ch with txen := false, rxen := false, oerr := false })) ∧
    (s.pphase = .pi3 → exec i s = .next ({ s with pphase := .pi4 }.setChan s.pCh.toNat { ch with div := s.pBrg })) ∧
    (s.pphase = .pi4 → exec i s = .next ({ s with pphase := .pi5 }.setChan s.pCh.toNat { ch with on := true })) ∧
    (s.pphase = .pi5 → exec i s = .next
      ({ s with pphase := .idle, bstat := .idle }.setChan s.pCh.toNat
        { ch with txen := true, rxen := true, oerr := false, chst := .ready }))

/-- R158: in every legal state, whatever the line agents have done, the step that completes an init leaves its channel as
the rule says. -/
def Obligations.InitCompletionState : Prop :=
  ∀ (s : State) (i : Instr), Inv s → s.bstat = .busy → s.pphase = .pi5 → decode s.descriptor = .ok i →
    ∃ t ch, exec i s = .next t ∧ t.bstat = .idle ∧ t.chan? s.pCh.toNat = some ch ∧
      ch.on = true ∧ ch.txen = true ∧ ch.rxen = true ∧ ch.oerr = false ∧ ch.div = s.pBrg ∧
      ch.rxfifo = [] ∧ ch.txbuf = [] ∧ ch.chst = .ready ∧
      (∀ c baud, i = .portInit c baud →
        s.pCh.toNat = c ∧ ch.div.toNat = (s.params.pclkHz / baud.toNat + 8) / 16 - 1) ∧
      (∀ k g baud, i = .chInit k baud → s.params.configs[k]? = some g →
        s.pCh.toNat = g.channel.toNat ∧ ch.div.toNat = (s.params.pclkHz / baud.toNat + 8) / 16 - 1)

/-- R155 and R195: an accepted PORT_INIT or CH_INIT completes in six turns of the sequencer; its channel is as R158 says
and has kept its wire, and no other channel, no byte of memory, no result and no framing register has changed. -/
def Obligations.InitOperationsRun : Prop :=
  ∀ (s : State) (i : Instr) (c k : Nat) (g : ChannelConfig) (baud : Word) (ch : Channel) (rest : List Move),
    s.bstat = .busy → s.atStart = true → decode s.descriptor = .ok i →
    (i = .portInit c baud ∨ (i = .chInit k baud ∧ s.params.configs[k]? = some g ∧ g.channel.toNat = c)) →
    c ≤ s.params.nChannels → c < 256 → s.chan? c = some ch → baud ≠ 0#32 →
    1 ≤ (s.params.pclkHz / baud.toNat + 8) / 16 → (s.params.pclkHz / baud.toNat + 8) / 16 ≤ 65536 →
    s.pending = turns 6 ++ rest →
    steps 6 s = .next
      ({ s with
          pending := rest, bstat := .idle, pCh := BitVec.ofNat 8 c,
          pBrg := BitVec.ofNat 16 ((s.params.pclkHz / baud.toNat + 8) / 16 - 1) }.setChan c
        { ch with
          chst := .ready, on := true, oerr := false, txen := true, rxen := true,
          div := BitVec.ofNat 16 ((s.params.pclkHz / baud.toNat + 8) / 16 - 1), rxfifo := [], txbuf := [] })

/-! ## PORT_TX -/

/-- R159 step 1: on a READY channel and an admitted buffer PORT_TX starts TxBytes, and with length 0 it completes in this
step with its address unchecked; either way nothing but the registers named changes. -/
def Obligations.PortTxAccepts : Prop :=
  ∀ (s : State) (c : Nat) (a n : Word), s.atStart = true → 1 ≤ c → c ≤ s.params.nChannels → s.isReady c = true →
    (n ≠ 0#32 → a ≠ 0#32 → admitted s.params a.toNat n.toNat = true →
      exec (.portTx c a n) s = .next
        { s with pCh := BitVec.ofNat 8 c, pSrc := .mem a, pLen := n, pIdx := 0#32, pphase := .ptPoll }) ∧
    (n = 0#32 → exec (.portTx c a n) s = .next
        { s with pCh := BitVec.ofNat 8 c, pSrc := .mem a, pLen := n, pIdx := 0#32, bstat := .idle })

/-- R159 step 2 to 4: PORT_TX's polls, fetches and writes. A poll that finds TXBF = 1 changes nothing; the last write
completes the operation. Memory is never written. -/
def Obligations.PortTxByteSteps : Prop :=
  ∀ (s : State) (c : Nat) (x n a : Word) (ch : Channel), s.fphase = .none → s.pSrc = .mem a →
    s.chan? s.pCh.toNat = some ch →
    (s.pphase = .ptPoll → ch.txbuf.length = s.params.txDepth → exec (.portTx c x n) s = .next s) ∧
    (s.pphase = .ptPoll → ch.txbuf.length ≠ s.params.txDepth →
      exec (.portTx c x n) s = .next { s with pphase := .ptFetch }) ∧
    (s.pphase = .ptFetch → a.toNat + s.pIdx.toNat < 2 ^ 32 →
      exec (.portTx c x n) s = .next { s with pD := Memory.read s.mem (a.toNat + s.pIdx.toNat), pphase := .ptWrite }) ∧
    (s.pphase = .ptWrite → ch.on = true → ch.txbuf.length < s.params.txDepth →
      let s' := s.setChan s.pCh.toNat { ch with txbuf := ch.txbuf ++ [s.pD] }
      exec (.portTx c x n) s = .next
        (if s.pIdx + 1#32 = s.pLen then { s' with pIdx := s.pIdx + 1#32, pphase := .idle, bstat := .idle }
         else { s' with pIdx := s.pIdx + 1#32, pphase := .ptPoll }))

/-- R159, R161, R103: under the TX-prompt schedule a PORT_TX of n bytes completes after its acceptance and three sequencer
steps a byte; the wire of its channel gains the n bytes of caller memory in index order, and no other channel, no byte of
memory and no result has changed. -/
def Obligations.PortTxRun : Prop :=
  ∀ (s : State) (c : Nat) (a n : Word) (ch : Channel) (rest : List Move),
    Inv s → s.bstat = .busy → s.atStart = true → decode s.descriptor = .ok (.portTx c a n) →
    s.chan? c = some ch → ch.chst = .ready → ch.txbuf = [] → (n ≠ 0#32 → a ≠ 0#32) →
    admitted s.params a.toNat n.toNat = true →
    s.pending = turns 1 ++ promptBytes c 3 n.toNat ++ rest →
    ∃ t, steps (1 + 4 * n.toNat) s = .next t ∧ t.bstat = .idle ∧ t.pending = rest ∧ t.mem = s.mem ∧
      t.chan? c = some { ch with wireOut := ch.wireOut ++ Memory.readRange s.mem a.toNat n.toNat } ∧
      (∀ c', c' ≠ c → t.chan? c' = s.chan? c') ∧ t.descriptor = s.descriptor ∧ t.res0 = s.res0 ∧ t.res1 = s.res1

/-! ## PORT_RX -/

/-- R164 step 1: on a READY channel PORT_RX starts RxBytes with the sink and the error target its operands name, a null
buffer discarding and a null error byte reporting nothing, each checked only where it is not null; with length 0 it
completes in this step. -/
def Obligations.PortRxAccepts : Prop :=
  ∀ (s : State) (c : Nat) (b n e : Word), s.atStart = true → 1 ≤ c → c ≤ s.params.nChannels → s.isReady c = true →
    let t := { s with
      pCh := BitVec.ofNat 8 c, pLen := n, pIdx := 0#32,
      pSrc := if b = 0#32 then .null else .mem b, pErr := if e = 0#32 then .none else .mem e }
    (n ≠ 0#32 → (b ≠ 0#32 → admitted s.params b.toNat n.toNat = true) →
      (e ≠ 0#32 → admitted s.params e.toNat 1 = true) → exec (.portRx c b n e) s = .next { t with pphase := .prPoll }) ∧
    (n = 0#32 → exec (.portRx c b n e) s = .next { t with bstat := .idle })

/-- R164 steps 2, 4, 5, 6 and 7, with R165, R167, R169 and R170: PORT_RX's polls, error merge, read and store. A poll that
finds neither data nor an overrun only latches P_S and waits. The only bytes of memory written are the error byte, by
PR_MWR, and the byte of index P_IDX of the buffer, by PR_STORE. That a poll which waits latches P_S is the model's reading of
R164 against R43 (notes/assumptions/15.md). -/
def Obligations.PortRxByteSteps : Prop :=
  ∀ (s : State) (c : Nat) (x n y : Word) (ch : Channel), s.fphase = .none → s.chan? s.pCh.toNat = some ch →
    s.pErr ≠ .sum → s.pSrc ≠ .len →
    let i : Instr := .portRx c x n y
    let polled := { s with pS := ch.statusWord s.params.txDepth }
    let next := fun (r : State) =>
      if s.pIdx + 1#32 = s.pLen then { r with pIdx := s.pIdx + 1#32, pphase := .idle, bstat := .idle }
      else { r with pIdx := s.pIdx + 1#32, pphase := .prPoll }
    (s.pphase = .prPoll → ch.rxfifo = [] → ch.oerr = false → exec i s = .next polled) ∧
    (∀ z zs, s.pphase = .prPoll → ch.rxfifo = z :: zs →
      let err := (if z.pe then 0x01#8 else 0#8) ||| (if z.fe then 0x02#8 else 0#8)
      (∀ e, s.pErr = .mem e → err ≠ 0#8 → exec i s = .next { polled with pE := err, pphase := .prMrd }) ∧
      (s.pErr = .none ∨ err = 0#8 → exec i s = .next { polled with pE := err, pphase := .prRead })) ∧
    (∀ e, s.pphase = .prMrd → s.pErr = .mem e →
      exec i s = .next { s with pD := Memory.read s.mem e.toNat, pphase := .prMwr }) ∧
    (∀ e, s.pphase = .prMwr → s.pErr = .mem e →
      exec i s = .next { s with mem := Memory.write s.mem e.toNat (s.pD ||| s.pE), pphase := .prRead }) ∧
    (∀ z zs, s.pphase = .prRead → ch.rxfifo = z :: zs →
      let taken := { s.setChan s.pCh.toNat { ch with rxfifo := zs } with pD := z.data }
      (∀ b, s.pSrc = .mem b → exec i s = .next { taken with pphase := .prStore }) ∧
      (s.pSrc = .null → exec i s = .next (next taken))) ∧
    (∀ b, s.pphase = .prStore → s.pSrc = .mem b → b.toNat + s.pIdx.toNat < 2 ^ 32 →
      exec i s = .next (next { s with mem := Memory.write s.mem (b.toNat + s.pIdx.toNat) s.pD }))

/-- R168: a poll of PORT_RX, or of CH_RX in any of its three receiving phases, that finds no data and an overrun is followed
by PR_CLEAR, which clears OERR, writes TXEN and RXEN back unchanged and goes back to the poll; while the FIFO holds data the
poll goes on to read it and leaves OERR as it is. -/
def Obligations.OverrunClear : Prop :=
  ∀ (s : State) (i : Instr) (c : Nat) (x n y : Word) (ch : Channel),
    (i = .portRx c x n y ∧ s.fphase = .none) ∨
      (i = .chRx c x n ∧ (s.fphase = .crLen ∨ s.fphase = .crPayload ∨ s.fphase = .crDrain)) →
    s.chan? s.pCh.toNat = some ch → s.pphase = .prPoll → ch.oerr = true →
    let polled := { s with pS := ch.statusWord s.params.txDepth }
    (ch.rxfifo = [] →
      exec i s = .next { polled with pphase := .prClear } ∧
      exec i { polled with pphase := .prClear } = .next (polled.setChan s.pCh.toNat { ch with oerr := false })) ∧
    (ch.rxfifo ≠ [] → ∃ t, exec i s = .next t ∧ (t.pphase = .prMrd ∨ t.pphase = .prRead) ∧ t.chans = s.chans)

/-- R164, R167, R169, R170: a PORT_RX whose bytes arrive just in time completes; memory is as if each byte in turn had been
merged into the error byte and stored, its FIFO is empty again, and no other channel and no result has changed. -/
def Obligations.PortRxRun : Prop :=
  ∀ (s : State) (c : Nat) (b n e : Word) (ch : Channel) (es : List RxEntry) (rest : List Move),
    Inv s → s.bstat = .busy → s.atStart = true → decode s.descriptor = .ok (.portRx c b n e) →
    s.chan? c = some ch → ch.chst = .ready → ch.rxfifo = [] → ch.oerr = false → es.length = n.toNat →
    (b ≠ 0#32 → admitted s.params b.toNat n.toNat = true) → (e ≠ 0#32 → admitted s.params e.toNat 1 = true) →
    s.pending = turns 1 ++ jitBytes c (receiveSteps b e) es ++ rest →
    ∃ t, steps (1 + (jitBytes c (receiveSteps b e) es).length) s = .next t ∧ t.bstat = .idle ∧ t.pending = rest ∧
      t.mem = receiveBytes b e 0 s.mem es ∧ (∀ c', t.chan? c' = s.chan? c') ∧
      t.descriptor = s.descriptor ∧ t.res0 = s.res0 ∧ t.res1 = s.res1

/-- R159, R164 and the order of R240: where PORT_TX and PORT_RX fault. -/
def Obligations.PortTransfersFault : Prop :=
  ∀ (s : State) (c : Nat) (a n e : Word), s.atStart = true →
    (c = 0 ∨ s.params.nChannels < c →
      exec (.portTx c a n) s = .next (raiseFault .badChannel (BitVec.ofNat 32 c) s) ∧
      exec (.portRx c a n e) s = .next (raiseFault .badChannel (BitVec.ofNat 32 c) s)) ∧
    (1 ≤ c → c ≤ s.params.nChannels → s.isReady c = false →
      exec (.portTx c a n) s = .next (raiseFault .notInit (BitVec.ofNat 32 c) s) ∧
      exec (.portRx c a n e) s = .next (raiseFault .notInit (BitVec.ofNat 32 c) s)) ∧
    (1 ≤ c → c ≤ s.params.nChannels → s.isReady c = true → n ≠ 0#32 →
      (a = 0#32 → exec (.portTx c a n) s = .next (raiseFault .nullPtr n s)) ∧
      (a ≠ 0#32 → admitted s.params a.toNat n.toNat = false →
        exec (.portTx c a n) s = .next (raiseFault .memRange a s) ∧
        exec (.portRx c a n e) s = .next (raiseFault .memRange a s)) ∧
      (a = 0#32 ∨ admitted s.params a.toNat n.toNat = true → e ≠ 0#32 → admitted s.params e.toNat 1 = false →
        exec (.portRx c a n e) s = .next (raiseFault .memRange e s)))

/-! ## CH_TX -/

/-- R197 step 1, R198: on a READY channel and an admitted packet (or an empty one, its address unchecked) CH_TX serialises
the length into LENBUF and goes to the encode where its configuration has a transform, else to the length prefix. -/
def Obligations.ChTxAccepts : Prop :=
  ∀ (s : State) (k : Nat) (a n : Word) (g : ChannelConfig), s.atStart = true → s.params.configs[k]? = some g →
    1 ≤ g.channel.toNat → g.channel.toNat ≤ s.params.nChannels → s.isReady g.channel.toNat = true →
    n = 0#32 ∨ (a ≠ 0#32 ∧ admitted s.params a.toNat n.toNat = true) →
    let t := { s with curCfg := BitVec.ofNat 8 k, lenBuf := serialise s.params.nativeOrder n }
    (g.transform ≠ none → exec (.chTx k a n) s = .next { t with fphase := .ctEncode }) ∧
    (g.transform = none → exec (.chTx k a n) s = .next
      { t with fphase := .ctLen, pCh := g.channel, pSrc := .len, pLen := 4#32, pIdx := 0#32, pphase := .ptPoll })

/-- R197 and R200, with R43, R159 and R163: the steps of CH_TX after its first: the encode; in the prefix and in the payload
the poll, which changes nothing while TXBF = 1, takes a byte of the prefix from LENBUF and goes on to PT_FETCH for a byte of
the payload; PT_FETCH; the write of a byte that is not the last; and the last write, which ends the prefix with and without a
payload, or the payload. -/
def Obligations.ChTxPhases : Prop :=
  ∀ (s : State) (k : Nat) (a n : Word) (g : ChannelConfig) (ch : Channel),
    s.params.configs[s.curCfg.toNat]? = some g → s.chan? s.pCh.toNat = some ch →
    (∀ t, s.fphase = .ctEncode → g.transform = some t → a.toNat + n.toNat ≤ 2 ^ 32 →
      exec (.chTx k a n) s = .next { s with
        mem := if n = 0#32 then s.mem else transformMem t .encode s.mem a.toNat n.toNat
        fphase := .ctLen, pCh := g.channel, pSrc := .len, pLen := 4#32, pIdx := 0#32, pphase := .ptPoll }) ∧
    (s.fphase = .ctLen ∨ s.fphase = .ctPayload → s.pphase = .ptPoll → ch.txbuf.length = s.params.txDepth →
      exec (.chTx k a n) s = .next s) ∧
    (∀ v, s.fphase = .ctLen → s.pphase = .ptPoll → s.pSrc = .len → ch.txbuf.length ≠ s.params.txDepth →
      s.lenBuf.get? s.pIdx.toNat = some v → exec (.chTx k a n) s = .next { s with pD := v, pphase := .ptWrite }) ∧
    (∀ x, s.fphase = .ctPayload → s.pphase = .ptPoll → s.pSrc = .mem x → ch.txbuf.length ≠ s.params.txDepth →
      exec (.chTx k a n) s = .next { s with pphase := .ptFetch }) ∧
    (∀ x, s.fphase = .ctPayload → s.pphase = .ptFetch → s.pSrc = .mem x → x.toNat + s.pIdx.toNat < 2 ^ 32 →
      exec (.chTx k a n) s = .next
        { s with pD := Memory.read s.mem (x.toNat + s.pIdx.toNat), pphase := .ptWrite }) ∧
    (s.fphase = .ctLen ∨ s.fphase = .ctPayload → s.pphase = .ptWrite → ch.on = true →
      ch.txbuf.length < s.params.txDepth → s.pIdx + 1#32 ≠ s.pLen →
      exec (.chTx k a n) s = .next { s.setChan s.pCh.toNat { ch with txbuf := ch.txbuf ++ [s.pD] } with
        pIdx := s.pIdx + 1#32, pphase := .ptPoll }) ∧
    (s.pphase = .ptWrite → ch.on = true → ch.txbuf.length < s.params.txDepth → s.pIdx + 1#32 = s.pLen →
      let s' := { s.setChan s.pCh.toNat { ch with txbuf := ch.txbuf ++ [s.pD] } with pIdx := s.pIdx + 1#32 }
      (s.fphase = .ctLen → n ≠ 0#32 → exec (.chTx k a n) s = .next
        { s' with fphase := .ctPayload, pSrc := .mem a, pLen := n, pIdx := 0#32, pphase := .ptPoll }) ∧
      (s.fphase = .ctLen → n = 0#32 → exec (.chTx k a n) s = .next
        { s' with fphase := .none, pphase := .idle, bstat := .idle }) ∧
      (s.fphase = .ctPayload → exec (.chTx k a n) s = .next
        { s' with fphase := .none, pphase := .idle, bstat := .idle }))

/-- R201, R197, R198, R199: under the TX-prompt schedule a CH_TX completes; the wire of the configuration's channel gains
the length prefix and then the payload, encoded where the configuration has a transform, caller memory holds the encoded
bytes, and no other channel and no result has changed. -/
def Obligations.ChTxRun : Prop :=
  ∀ (s : State) (k : Nat) (a n : Word) (g : ChannelConfig) (ch : Channel) (rest : List Move),
    Inv s → s.bstat = .busy → s.atStart = true → decode s.descriptor = .ok (.chTx k a n) →
    s.params.configs[k]? = some g → s.chan? g.channel.toNat = some ch → ch.chst = .ready → ch.txbuf = [] →
    n = 0#32 ∨ (a ≠ 0#32 ∧ admitted s.params a.toNat n.toNat = true) →
    let c := g.channel.toNat
    let mem' := match g.transform with
      | none => s.mem
      | some t => if n = 0#32 then s.mem else transformMem t .encode s.mem a.toNat n.toNat
    let first := if g.transform = none then 1 else 2
    s.pending = turns first ++ promptBytes c 2 4 ++ promptBytes c 3 n.toNat ++ rest →
    ∃ t, steps (first + 3 * 4 + 4 * n.toNat) s = .next t ∧ t.bstat = .idle ∧ t.pending = rest ∧ t.mem = mem' ∧
      t.chan? c = some { ch with
        wireOut := ch.wireOut ++ (serialise s.params.nativeOrder n).toList ++ Memory.readRange mem' a.toNat n.toNat } ∧
      (∀ c', c' ≠ c → t.chan? c' = s.chan? c') ∧ t.descriptor = s.descriptor ∧ t.res0 = s.res0 ∧ t.res1 = s.res1

/-! ## CH_RX -/

/-- R202 step 1: on a READY channel and an admitted buffer (or an empty one, its address unchecked) CH_RX clears ERRSUM and
starts the reception of the prefix. -/
def Obligations.ChRxAccepts : Prop :=
  ∀ (s : State) (k : Nat) (b m : Word) (g : ChannelConfig), s.atStart = true → s.params.configs[k]? = some g →
    1 ≤ g.channel.toNat → g.channel.toNat ≤ s.params.nChannels → s.isReady g.channel.toNat = true →
    m = 0#32 ∨ (b ≠ 0#32 ∧ admitted s.params b.toNat m.toNat = true) →
    exec (.chRx k b m) s = .next { s with
      curCfg := BitVec.ofNat 8 k, errSum := 0#8, fphase := .crLen, pCh := g.channel, pSrc := .len, pLen := 4#32,
      pIdx := 0#32, pErr := .sum, pphase := .prPoll }

/-- R206 and R202, with R171: the steps that a byte of CH_RX takes in each of its receiving phases (the poll, which merges
the errors of the byte into ERRSUM, the read into LENBUF, for the store or into the discard, and the store), where it goes
at the end of its prefix, of its payload and of its drain, and its two last steps. A read takes the head of the channel's
FIFO, and each step changes nothing but what its clause names. That a poll which waits latches P_S is
the model's reading of R164 against R43 (notes/assumptions/15.md). -/
def Obligations.ChRxPhases : Prop :=
  ∀ (s : State) (k : Nat) (b m : Word) (g : ChannelConfig) (ch : Channel) (z : RxEntry) (zs : List RxEntry),
    s.params.configs[s.curCfg.toNat]? = some g → s.chan? s.pCh.toNat = some ch →
    let last : FPhase := if g.transform = none then .crResult else .crDecode
    let receiving := s.fphase = .crLen ∨ s.fphase = .crPayload ∨ s.fphase = .crDrain
    let polled := { s with pS := ch.statusWord s.params.txDepth }
    let taken := { s.setChan s.pCh.toNat { ch with rxfifo := zs } with pD := z.data }
    let err := (if z.pe then 0x01#8 else 0#8) ||| (if z.fe then 0x02#8 else 0#8)
    (receiving → s.pphase = .prPoll → ch.rxfifo = [] → ch.oerr = false → exec (.chRx k b m) s = .next polled) ∧
    (receiving → s.pphase = .prPoll → ch.rxfifo = z :: zs → s.pErr = .sum →
      exec (.chRx k b m) s = .next { polled with pE := err, errSum := s.errSum ||| err, pphase := .prRead }) ∧
    (∀ buf, s.fphase = .crLen → s.pphase = .prRead → ch.rxfifo = z :: zs → s.pSrc = .len → s.pIdx + 1#32 ≠ s.pLen →
      s.lenBuf.set? s.pIdx.toNat z.data = some buf →
      exec (.chRx k b m) s = .next { taken with lenBuf := buf, pIdx := s.pIdx + 1#32, pphase := .prPoll }) ∧
    (∀ x, s.fphase = .crPayload → s.pphase = .prRead → ch.rxfifo = z :: zs → s.pSrc = .mem x →
      exec (.chRx k b m) s = .next { taken with pphase := .prStore }) ∧
    (∀ x, s.fphase = .crPayload → s.pphase = .prStore → s.pSrc = .mem x → x.toNat + s.pIdx.toNat < 2 ^ 32 →
      s.pIdx + 1#32 ≠ s.pLen → exec (.chRx k b m) s = .next { s with
        mem := Memory.write s.mem (x.toNat + s.pIdx.toNat) s.pD, pIdx := s.pIdx + 1#32, pphase := .prPoll }) ∧
    (s.fphase = .crDrain → s.pphase = .prRead → ch.rxfifo = z :: zs → s.pSrc = .null → s.pIdx + 1#32 ≠ s.pLen →
      exec (.chRx k b m) s = .next { taken with pIdx := s.pIdx + 1#32, pphase := .prPoll }) ∧
    (s.fphase = .crLen → s.pphase = .prRead → ch.rxfifo = z :: zs → s.pSrc = .len → s.pIdx = 3#32 → s.pLen = 4#32 →
      let pkt := assemble s.params.nativeOrder { s.lenBuf with b3 := z.data }
      let recv := if pkt ≤ m then pkt else m
      let t := { taken with lenBuf := { s.lenBuf with b3 := z.data }, pktLen := pkt, recvLen := recv }
      (recv ≠ 0#32 → exec (.chRx k b m) s = .next { t with
        fphase := .crPayload, pphase := .prPoll, pSrc := .mem b, pLen := recv, pIdx := 0#32, pErr := .sum }) ∧
      (recv = 0#32 → pkt ≠ 0#32 → exec (.chRx k b m) s = .next { t with
        fphase := .crDrain, pphase := .prPoll, pSrc := .null, pLen := pkt, pIdx := 0#32, pErr := .sum }) ∧
      (pkt = 0#32 → exec (.chRx k b m) s = .next { t with fphase := last, pphase := .idle, pIdx := 4#32 })) ∧
    (∀ x, s.fphase = .crPayload → s.pphase = .prStore → s.pSrc = .mem x → x.toNat + s.pIdx.toNat < 2 ^ 32 →
      s.pIdx + 1#32 = s.pLen →
      let t := { s with mem := Memory.write s.mem (x.toNat + s.pIdx.toNat) s.pD }
      (s.recvLen < s.pktLen → exec (.chRx k b m) s = .next { t with
        fphase := .crDrain, pphase := .prPoll, pSrc := .null, pLen := s.pktLen - s.recvLen, pIdx := 0#32, pErr := .sum }) ∧
      (¬s.recvLen < s.pktLen → exec (.chRx k b m) s = .next
        { t with fphase := last, pphase := .idle, pIdx := s.pIdx + 1#32 })) ∧
    (s.fphase = .crDrain → s.pphase = .prRead → ch.rxfifo = z :: zs → s.pSrc = .null → s.pIdx + 1#32 = s.pLen →
      exec (.chRx k b m) s = .next { taken with fphase := last, pphase := .idle, pIdx := s.pIdx + 1#32 }) ∧
    (∀ t, s.fphase = .crDecode → g.transform = some t → b.toNat + s.recvLen.toNat ≤ 2 ^ 32 →
      exec (.chRx k b m) s = .next { s with
        mem := if s.recvLen = 0#32 then s.mem else transformMem t .decode s.mem b.toNat s.recvLen.toNat
        fphase := .crResult }) ∧
    (s.fphase = .crResult → exec (.chRx k b m) s = .next { s with
      res0 := s.pktLen, res1 := BitVec.ofNat 32 s.errSum.toNat, fphase := .none, pphase := .idle, bstat := .idle })

/-- R207, R203, R204, R205, R208, R209: a CH_RX whose packet (a prefix that encodes L, and L payload bytes) arrives just in
time completes; RES0 is L, RES1 is the OR of the error bits of all 4 + L bytes, memory holds the first min(L, m) payload
bytes, decoded where the configuration has a transform, its FIFO is empty again and no channel has changed. -/
def Obligations.ChRxRun : Prop :=
  ∀ (s : State) (k : Nat) (b m : Word) (g : ChannelConfig) (ch : Channel) (h0 h1 h2 h3 : RxEntry) (body : List RxEntry)
    (rest : List Move),
    Inv s → s.bstat = .busy → s.atStart = true → decode s.descriptor = .ok (.chRx k b m) →
    s.params.configs[k]? = some g → s.chan? g.channel.toNat = some ch → ch.chst = .ready → ch.rxfifo = [] →
    ch.oerr = false → m = 0#32 ∨ (b ≠ 0#32 ∧ admitted s.params b.toNat m.toNat = true) →
    let c := g.channel.toNat
    let l := assemble s.params.nativeOrder ⟨h0.data, h1.data, h2.data, h3.data⟩
    let recv := min l.toNat m.toNat
    let last := if g.transform = none then 1 else 2
    let stored := Memory.writeRange s.mem b.toNat ((body.take recv).map RxEntry.data)
    let moves := turns 1 ++ jitBytes c (fun _ => 2) [h0, h1, h2, h3] ++ jitBytes c (fun _ => 3) (body.take recv) ++
      jitBytes c (fun _ => 2) (body.drop recv) ++ turns last
    body.length = l.toNat → s.pending = moves ++ rest →
    ∃ t, steps moves.length s = .next t ∧ t.bstat = .idle ∧ t.pending = rest ∧
      t.res0 = l ∧ t.res1 = (summaryOf ([h0, h1, h2, h3] ++ body)).setWidth 32 ∧
      t.mem = (match g.transform with
        | none => stored
        | some x => if recv = 0 then stored else transformMem x .decode stored b.toNat recv) ∧
      (∀ c', t.chan? c' = s.chan? c') ∧ t.descriptor = s.descriptor

/-- R195, R197, R202 and the order of R240: where CH_TX and CH_RX fault. -/
def Obligations.FramingTransfersFault : Prop :=
  ∀ (s : State) (k : Nat) (a n : Word), s.atStart = true →
    (s.params.configs.length ≤ k →
      exec (.chTx k a n) s = .next (raiseFault .badConfig (BitVec.ofNat 32 k) s) ∧
      exec (.chRx k a n) s = .next (raiseFault .badConfig (BitVec.ofNat 32 k) s)) ∧
    ∀ g, s.params.configs[k]? = some g →
      let c := g.channel.toNat
      (c = 0 ∨ s.params.nChannels < c →
        exec (.chTx k a n) s = .next (raiseFault .badChannel (BitVec.ofNat 32 c) s) ∧
        exec (.chRx k a n) s = .next (raiseFault .badChannel (BitVec.ofNat 32 c) s)) ∧
      (1 ≤ c → c ≤ s.params.nChannels → s.isReady c = false →
        exec (.chTx k a n) s = .next (raiseFault .notInit (BitVec.ofNat 32 c) s) ∧
        exec (.chRx k a n) s = .next (raiseFault .notInit (BitVec.ofNat 32 c) s)) ∧
      (1 ≤ c → c ≤ s.params.nChannels → s.isReady c = true → n ≠ 0#32 → a = 0#32 →
        exec (.chTx k a n) s = .next (raiseFault .nullPtr n s) ∧
        exec (.chRx k a n) s = .next (raiseFault .nullPtr n s)) ∧
      (1 ≤ c → c ≤ s.params.nChannels → s.isReady c = true → n ≠ 0#32 → a ≠ 0#32 →
        admitted s.params a.toNat n.toNat = false →
        exec (.chTx k a n) s = .next (raiseFault .memRange a s) ∧
        exec (.chRx k a n) s = .next (raiseFault .memRange a s))

/-- R210: a CH_TX of n bytes on configuration k, and then, on any machine whose line delivers just in time and without
errors the 4 + n bytes that the wire gained, a CH_RX into a buffer of at least n bytes on a configuration j whose transform
undoes the sender's: RES0 is n, the buffer's first n bytes are the packet as it was before the encode, and RES1 is 0. -/
def Obligations.FramedRoundTrip : Prop :=
  ∀ (s r : State) (k j : Nat) (a n b m : Word) (g g' : ChannelConfig) (ch ch' : Channel),
    let c := g.channel.toNat
    let c' := g'.channel.toNat
    let first := if g.transform = none then 1 else 2
    let last := if g'.transform = none then 1 else 2
    Inv s → s.bstat = .busy → s.atStart = true → decode s.descriptor = .ok (.chTx k a n) →
    s.params.configs[k]? = some g → s.chan? c = some ch → ch.chst = .ready → ch.txbuf = [] →
    n = 0#32 ∨ (a ≠ 0#32 ∧ admitted s.params a.toNat n.toNat = true) →
    s.pending = turns first ++ promptBytes c 2 4 ++ promptBytes c 3 n.toNat →
    Inv r → r.bstat = .busy → r.atStart = true → decode r.descriptor = .ok (.chRx j b m) →
    r.params.configs[j]? = some g' → r.chan? c' = some ch' → ch'.chst = .ready → ch'.rxfifo = [] → ch'.oerr = false →
    m = 0#32 ∨ (b ≠ 0#32 ∧ admitted r.params b.toNat m.toNat = true) → n.toNat ≤ m.toNat →
    r.params.nativeOrder = s.params.nativeOrder →
    ((g.transform = none ∧ g'.transform = none) ∨
      ∃ x y, g.transform = some x ∧ g'.transform = some y ∧
        ∀ bs, applyTransform y .decode (applyTransform x .encode bs) = bs) →
    ∃ t cht, steps s.pending.length s = .next t ∧ t.chan? c = some cht ∧
      let sent := (cht.wireOut.drop ch.wireOut.length).map fun v => (⟨v, false, false⟩ : RxEntry)
      sent.length = 4 + n.toNat ∧
      (r.pending = turns 1 ++ jitBytes c' (fun _ => 2) (sent.take 4) ++ jitBytes c' (fun _ => 3) (sent.drop 4) ++
          turns last →
        ∃ u, steps r.pending.length r = .next u ∧ u.bstat = .idle ∧ u.res0 = n ∧ u.res1 = 0#32 ∧
          Memory.readRange u.mem b.toNat n.toNat = Memory.readRange s.mem a.toNat n.toNat)

/-! ## Invariants and rules of the whole machine -/

/-- R67: the invariant holds after reset. That the parameters are the test values and the peripherals are all zero there is
the model's choice (notes/assumptions/1.md and 2.md). -/
def Obligations.InvAtReset : Prop := Inv State.reset

/-- Every step keeps the invariant: the shapes of R7, R35, R49, R63 and R64 and the canonical form of memory, FCAUSE and
FINFO (R37, R38), the enables of READY channels (R162), and the fit of the phases to the operation (R44). -/
def Obligations.StepKeepsInv : Prop := ∀ s t : State, Inv s → step s = .next t → Inv t

/-- R83, R130, R160, R166: in every legal state whose next move is one that the spec gives its agent, the step answers a
next state; no stop of the model's own is ever reached. -/
def Obligations.InvStepAnswersNext : Prop := ∀ s : State, Inv s → s.nextAllowed = true → ∃ t, step s = .next t

/-- R160: in every legal state, the TXREG write of PT_WRITE finds room and loses no byte. -/
def Obligations.TransmitDiscipline : Prop :=
  ∀ s : State, Inv s → s.pphase = .ptWrite →
    ∃ ch, s.chan? s.pCh.toNat = some ch ∧ ch.on = true ∧ ch.txbuf.length < s.params.txDepth ∧
      regWrite s s.pCh.toNat .txreg (s.pD.setWidth 32) =
        .ok (s.setChan s.pCh.toNat { ch with txbuf := ch.txbuf ++ [s.pD] })

/-- R166: in every legal state, the RXREG read of PR_READ finds an entry, and the summary bits latched by the poll are that
entry's own. -/
def Obligations.ReceiveDiscipline : Prop :=
  ∀ s : State, Inv s → s.pphase = .prRead →
    ∃ ch z zs, s.chan? s.pCh.toNat = some ch ∧ ch.rxfifo = z :: zs ∧
      s.pE = (if z.pe then 0x01#8 else 0#8) ||| (if z.fe then 0x02#8 else 0#8) ∧
      regRead s s.pCh.toNat .rxreg = .ok (z.data.setWidth 32, s.setChan s.pCh.toNat { ch with rxfifo := zs })

/-- R98: a receive that finds no byte is BUSY after any number of steps in which no byte arrives on its channel, and has
changed no result and no byte of memory, whatever the other agents do: turns of the sequencer, sends, arrivals on other
channels, and the host's reads and writes of what the operation does not name, in the moves listed and in the turns that come
up by themselves after them. A byte of memory changes only where the host has written it. The order of the turns that come up
by themselves (notes/assumptions/5.md), which bytes an operation names and which the host may reach (8.md, 21.md), and that a
listed send with nothing to send changes nothing (22.md) are the model's. -/
def Obligations.ReceiveHangsWithoutArrival : Prop :=
  ∀ (k : Nat) (s : State) (i : Instr) (ch : Channel), Inv s → s.bstat = .busy → decode s.descriptor = .ok i →
    s.pphase = .prPoll → s.chan? s.pCh.toNat = some ch → ch.rxfifo = [] →
    (∀ m ∈ s.pending, match m with
      | .sequencer => True
      | .hostRead _ => True
      | .hostLoad a => ∀ g ∈ namedRanges i, ¬(g.1 ≤ a.toNat ∧ a.toNat < g.1 + g.2)
      | .hostStore a _ => ∀ g ∈ namedRanges i, ¬(g.1 ≤ a.toNat ∧ a.toNat < g.1 + g.2)
      | .lineTx c => 1 ≤ c ∧ c ≤ s.params.nChannels
      | .lineRx c _ _ _ => 1 ≤ c ∧ c ≤ s.params.nChannels ∧ c ≠ s.pCh.toNat
      | .issue _ _ _ _ => False
      | .reset _ => False) →
    ∃ t, steps k s = .next t ∧ t.bstat = .busy ∧ (t.pphase = .prPoll ∨ t.pphase = .prClear) ∧
      t.res0 = s.res0 ∧ t.res1 = s.res1 ∧
      ∀ x, (∀ a v, .hostStore a v ∈ s.pending → a.toNat ≠ x) → Memory.read t.mem x = Memory.read s.mem x

/-- R162, R96: a transmit that waits on a full buffer leaves its poll once each agent has had its turn twice. The turn order
is the model's choice of a fair schedule (notes/assumptions/5.md). -/
def Obligations.TransmitWaitEnds : Prop :=
  ∀ s : State, Inv s → s.bstat = .busy → s.pphase = .ptPoll → s.pending = [] →
    ∃ k t, k ≤ 2 * (s.params.nChannels + 1) ∧ steps k s = .next t ∧ t.bstat = .busy ∧
      (t.pphase = .ptFetch ∨ t.pphase = .ptWrite)

/-- R274: every PORT_INIT, CH_INIT, PORT_TX and CH_TX in progress completes, and one at its first step completes or faults
there, when the agents take their turns. The turn order is the model's choice of a fair schedule (notes/assumptions/5.md). -/
def Obligations.TransmitsAndInitsComplete : Prop :=
  ∀ (s : State) (i : Instr), Inv s → s.bstat = .busy → decode s.descriptor = .ok i → s.pending = [] →
    (∃ c x n, i = .portInit c x ∨ i = .chInit c x ∨ i = .portTx c x n ∨ i = .chTx c x n) →
    ∃ k t, steps k s = .next t ∧ t.bstat ≠ .busy ∧ (s.atStart = false → t.bstat = .idle)

/-- R66, R7: no step changes the configuration table or any other parameter. -/
def Obligations.ParametersNeverChange : Prop := ∀ s t : State, step s = .next t → t.params = s.params

/-- R205: RES0 and RES1 change, but for a reset, only in the step that completes a CH_RX, and then they are the declared
length that its prefix encodes and the summary. -/
def Obligations.ResultsOnlyFromChRx : Prop :=
  ∀ s t : State, Inv s → step s = .next t → (∀ draws, (schedule s).1 ≠ .reset draws) →
    t.res0 ≠ s.res0 ∨ t.res1 ≠ s.res1 →
    (schedule s).1 = .sequencer ∧ (∃ k b m, decode s.descriptor = .ok (.chRx k b m)) ∧ s.fphase = .crResult ∧
      s.pktLen = assemble s.params.nativeOrder s.lenBuf ∧ t.bstat = .idle ∧ t.res0 = s.pktLen ∧
      t.res1 = s.errSum.setWidth 32

/-- R47: a channel becomes READY only in the step that completes its init, and ceases to be READY only at a reset. -/
def Obligations.ReadyOnlyByInit : Prop :=
  ∀ (s t : State) (c : Nat), Inv s → step s = .next t →
    ((∀ draws, (schedule s).1 ≠ .reset draws) → s.isReady c = true → t.isReady c = true) ∧
    (s.isReady c = false → t.isReady c = true →
      (schedule s).1 = .sequencer ∧ s.pphase = .pi5 ∧ s.pCh.toNat = c ∧ t.bstat = .idle ∧
      ∃ n x, decode s.descriptor = .ok (.portInit n x) ∨ decode s.descriptor = .ok (.chInit n x))

/-- R32: a step of channel c's line agent changes only that channel's receive FIFO, transmit buffer, OERR and wire. -/
def Obligations.LineAgentFrame : Prop :=
  ∀ (s t : State) (c : Nat) (m : Move) (rest : List Move), s.pending = m :: rest →
    m = .lineTx c ∨ (∃ b pe fe, m = .lineRx c b pe fe) → step s = .next t →
    ∃ chans, t = { s with pending := rest, chans := chans } ∧ (∀ c', c' ≠ c → t.chan? c' = s.chan? c') ∧
      ∀ ch, s.chan? c = some ch → ∃ rx tx o w,
        t.chan? c = some { ch with rxfifo := rx, txbuf := tx, oerr := o, wireOut := w }

/-- R32, R246, R83: a step of any operation leaves every channel but P_CH's as it was, and leaves the wires, the descriptor
and the schedule alone; its first step changes no channel and no byte of memory. Of caller memory a step writes only the
error byte in PR_MWR, the byte of index P_IDX in PR_STORE and the range of a transform, every other step leaving all of it as
it was; and it reads only the byte of index P_IDX in PT_FETCH, the error byte in PR_MRD and the range of a transform: with any
other contents elsewhere the step differs in nothing, writes the same bytes, and keeps the other contents at every byte that
it does not write. What it writes is compared for memories in canonical form, which is part of Inv. -/
def Obligations.SequencerFrame : Prop :=
  ∀ (i : Instr) (s t : State), exec i s = .next t →
    (∀ c, c ≠ s.pCh.toNat → t.chan? c = s.chan? c) ∧
    (s.atStart = true → t.chans = s.chans ∧ t.mem = s.mem) ∧
    (∀ (c : Nat) (ch ch' : Channel), s.chan? c = some ch → t.chan? c = some ch' → ch'.wireOut = ch.wireOut) ∧
    t.descriptor = s.descriptor ∧ t.pending = s.pending ∧ t.turn = s.turn ∧
    (storedRanges i s = [] → t.mem = s.mem) ∧
    (∀ x, (∀ r ∈ storedRanges i s, x < r.1 ∨ r.1 + r.2 ≤ x) → Memory.read t.mem x = Memory.read s.mem x) ∧
    (∀ m, (∀ r ∈ fetchedRanges i s, ∀ x, r.1 ≤ x → x < r.1 + r.2 → Memory.read m x = Memory.read s.mem x) →
      ∃ m', exec i { s with mem := m } = .next { t with mem := m' } ∧
        (∀ x, (∀ r ∈ storedRanges i s, x < r.1 ∨ r.1 + r.2 ≤ x) → Memory.read m' x = Memory.read m x) ∧
        (Memory.wf s.mem = true → Memory.wf m = true → ∀ r ∈ storedRanges i s, ∀ x, r.1 ≤ x → x < r.1 + r.2 →
          Memory.read m' x = Memory.read t.mem x))

/-- R103, R65: but for a reset, no step takes a byte off a wire; and but for a reset and the flush of an init's first write,
what a channel has sent and has yet to send only grows at its end, by at most the byte that PT_WRITE moves. -/
def Obligations.WireOrder : Prop :=
  ∀ (s t : State) (c : Nat) (ch ch' : Channel), step s = .next t → (∀ draws, (schedule s).1 ≠ .reset draws) →
    s.chan? c = some ch → t.chan? c = some ch' →
    (ch.wireOut <+: ch'.wireOut) ∧
    ((schedule s).1 ≠ .sequencer ∨ s.pphase ≠ .pi1 →
      ch'.wireOut ++ ch'.txbuf = ch.wireOut ++ ch.txbuf ∨
      ((schedule s).1 = .sequencer ∧ s.pphase = .ptWrite ∧ s.pCh.toNat = c ∧
        ch'.wireOut ++ ch'.txbuf = ch.wireOut ++ ch.txbuf ++ [s.pD]))
end

