-- ==== Sys2Proof/Laws/Memory.lean ====
section
/-! SUPPORT. The laws of caller memory: a read after a write, and that every memory operation keeps the canonical form. -/

namespace Sys2Proof.Machine.Memory

open Sys2Proof Sys2Proof.Machine

/-! ## The canonical form -/

theorem wfFrom_cons {lo k : Nat} {v : Byte} {rest : List Host.Cell} :
    wfFrom lo ((k, v) :: rest) = true ↔
      (lo ≤ k ∧ k < 4294967296 ∧ v ≠ 0#8) ∧ wfFrom (k + 1) rest = true := by
  simp [wfFrom]

theorem wfFrom_mono {lo lo' : Nat} {m : List Host.Cell} (h : lo' ≤ lo) (hm : wfFrom lo m = true) :
    wfFrom lo' m = true := by
  cases m with
  | nil => rfl
  | cons x rest =>
    obtain ⟨k, v⟩ := x
    rw [wfFrom_cons] at hm ⊢
    exact ⟨⟨by omega, hm.1.2⟩, hm.2⟩

/-- Below its first possible entry a memory reads 0. -/
theorem read_below {lo a : Nat} {m : List Host.Cell} (hm : wfFrom lo m = true) (h : a < lo) : read m a = 0#8 := by
  induction m generalizing lo with
  | nil => rfl
  | cons x rest ih =>
    obtain ⟨k, v⟩ := x
    rw [wfFrom_cons] at hm
    have hk : k ≠ a := by omega
    simp only [read, if_neg hk]
    exact ih hm.2 (by omega)

theorem write_wfFrom {lo a : Nat} {v : Byte} {m : List Host.Cell} (hm : wfFrom lo m = true) (hlo : lo ≤ a)
    (ha : a < 4294967296) : wfFrom lo (write m a v) = true := by
  induction m generalizing lo with
  | nil =>
    by_cases hv : v = 0#8
    · simp [write, hv, wfFrom]
    · simp [write, hv, wfFrom, hlo, ha]
  | cons x rest ih =>
    obtain ⟨k, w⟩ := x
    obtain ⟨⟨h1, h2, h3⟩, h4⟩ := wfFrom_cons.mp hm
    simp only [write]
    split
    · exact wfFrom_cons.mpr ⟨⟨h1, h2, h3⟩, ih h4 (by omega)⟩
    · split
      · split
        · exact wfFrom_mono (by omega) h4
        · subst k
          exact wfFrom_cons.mpr ⟨⟨hlo, ha, by assumption⟩, h4⟩
      · split
        · exact hm
        · exact wfFrom_cons.mpr ⟨⟨hlo, ha, by assumption⟩, wfFrom_cons.mpr ⟨⟨by omega, h2, h3⟩, h4⟩⟩

/-- A write inside the address space keeps the canonical form. -/
theorem write_wf {a : Nat} {v : Byte} {m : List Host.Cell} (hm : wf m = true) (ha : a < 4294967296) :
    wf (write m a v) = true := write_wfFrom hm (Nat.zero_le a) ha

/-- The empty memory has the canonical form. -/
@[simp] theorem wf_nil : wf [] = true := rfl

/-! ## Reads after writes -/

theorem read_write_wfFrom {lo a : Nat} {v : Byte} {m : List Host.Cell} (hm : wfFrom lo m = true) (b : Nat) :
    read (write m a v) b = if b = a then v else read m b := by
  induction m generalizing lo with
  | nil =>
    by_cases hv : v = 0#8 <;> by_cases hb : b = a <;> simp [write, read, hv, hb, eq_comm]
    all_goals simp [Ne.symm hb]
  | cons x rest ih =>
    obtain ⟨k, w⟩ := x
    obtain ⟨⟨h1, h2, h3⟩, h4⟩ := wfFrom_cons.mp hm
    simp only [write]
    split
    · by_cases hk : k = b
      · have : b ≠ a := by omega
        simp [read, hk, this]
      · simp only [read, if_neg hk]
        exact ih h4
    · split
      · subst k
        split
        · by_cases hb : b = a
          · subst hb
            rw [read_below h4 (by omega)]
            simp [*]
          · simp [read, hb, Ne.symm hb]
        · by_cases hb : b = a
          · simp [read, hb]
          · simp [read, hb, Ne.symm hb]
      · split
        · by_cases hb : b = a
          · subst hb
            rw [read_below (lo := k) (wfFrom_cons.mpr ⟨⟨le_refl _, h2, h3⟩, h4⟩) (by omega)]
            simp [*]
          · simp [hb]
        · by_cases hb : b = a
          · simp [read, hb]
          · rw [read, if_neg (Ne.symm hb), if_neg hb]

/-- A read after a write gives the byte written at its address, and leaves every other address alone. -/
theorem read_write {a : Nat} {v : Byte} {m : List Host.Cell} (hm : wf m = true) (b : Nat) :
    read (write m a v) b = if b = a then v else read m b := read_write_wfFrom hm b

@[simp] theorem read_write_same {a : Nat} {v : Byte} {m : List Host.Cell} (hm : wf m = true) :
    read (write m a v) a = v := by simp [read_write hm]

/-- A write leaves every other address alone, whatever form the list has. -/
theorem read_write_other {a b : Nat} {v : Byte} (m : List Host.Cell) (h : b ≠ a) :
    read (write m a v) b = read m b := by
  induction m with
  | nil =>
    rw [write]
    split
    · rfl
    · simp [read, Ne.symm h]
  | cons c rest ih =>
    obtain ⟨k, w⟩ := c
    rw [write]
    split
    · rw [read, read, ih]
    · split
      · rename_i hk
        have hb : k ≠ b := hk ▸ Ne.symm h
        split
        · rw [read, if_neg hb]
        · rw [read, read, if_neg (Ne.symm h), if_neg hb]
      · split
        · rfl
        · rw [read, if_neg (Ne.symm h)]

/-! ## Ranges -/

@[simp] theorem readRange_length (m : List Host.Cell) (a n : Nat) : (readRange m a n).length = n := by simp [readRange]

@[simp] theorem readRange_zero (m : List Host.Cell) (a : Nat) : readRange m a 0 = [] := rfl

theorem writeRange_wf {a : Nat} {m : List Host.Cell} {bs : List Byte} (hm : wf m = true)
    (h : a + bs.length ≤ 4294967296) : wf (writeRange m a bs) = true := by
  induction bs generalizing a m with
  | nil => exact hm
  | cons v vs ih =>
    simp only [List.length_cons] at h
    exact ih (write_wf hm (by omega)) (by omega)

/-- What a byte reads as after a range has been written. -/
theorem read_writeRange {a : Nat} {m : List Host.Cell} {bs : List Byte} (hm : wf m = true)
    (h : a + bs.length ≤ 4294967296) (x : Nat) :
    read (writeRange m a bs) x = if a ≤ x ∧ x < a + bs.length then bs.getD (x - a) 0#8 else read m x := by
  induction bs generalizing a m with
  | nil =>
    have : ¬(a ≤ x ∧ x < a + ([] : List Byte).length) := by simp
    rw [if_neg this]
    rfl
  | cons v vs ih =>
    simp only [List.length_cons] at h
    have hw := write_wf (v := v) hm (show a < 4294967296 by omega)
    rw [writeRange, ih hw (by omega), read_write hm]
    simp only [List.length_cons]
    by_cases hx : x = a
    · subst hx
      rw [if_neg (by omega), if_pos rfl, if_pos (by omega)]
      simp
    · by_cases h1 : a + 1 ≤ x ∧ x < a + 1 + vs.length
      · rw [if_pos h1, if_pos (by omega), show x - a = (x - (a + 1)) + 1 by omega]
        simp
      · rw [if_neg h1, if_neg hx, if_neg (by omega)]

/-- Writing a range leaves every address outside it alone, whatever form the list has. -/
theorem read_writeRange_outside {a x : Nat} {bs : List Byte} (m : List Host.Cell) (h : x < a ∨ a + bs.length ≤ x) :
    read (writeRange m a bs) x = read m x := by
  induction bs generalizing a m with
  | nil => rfl
  | cons v vs ih =>
    simp only [List.length_cons] at h
    rw [writeRange, ih _ (by omega), read_write_other m (by omega)]

/-- Ranges that read alike byte by byte are equal. -/
theorem readRange_congr {m m' : List Host.Cell} {a n : Nat} (h : ∀ x, a ≤ x → x < a + n → read m x = read m' x) :
    readRange m a n = readRange m' a n := by
  apply List.map_congr_left
  intro i hi
  have := List.mem_range.mp hi
  exact h (a + i) (by omega) (by omega)

/-- Reading back a range just written. -/
theorem readRange_writeRange {a : Nat} {m : List Host.Cell} {bs : List Byte} (hm : wf m = true)
    (h : a + bs.length ≤ 4294967296) : readRange (writeRange m a bs) a bs.length = bs := by
  apply List.ext_getElem
  · simp
  · intro i h1 h2
    simp only [readRange, List.getElem_map, List.getElem_range]
    rw [read_writeRange hm h, if_pos (by omega)]
    simp [h2]

end Sys2Proof.Machine.Memory
end

