-- ==== Sys2Proof/Laws/State.lean ====
section
/-! SUPPORT. One lemma per field per named update of the state, true by rfl, so that no later proof unfolds a record
update; and the same for the replacement of a channel, which is by cases on its number. -/

namespace Sys2Proof.Machine

/-! ## raiseFault -/

@[simp] theorem raiseFault_params (c : Cause) (info : Word) (s : State) : (raiseFault c info s).params = s.params := rfl
@[simp] theorem raiseFault_d0 (c : Cause) (info : Word) (s : State) : (raiseFault c info s).d0 = s.d0 := rfl
@[simp] theorem raiseFault_d1 (c : Cause) (info : Word) (s : State) : (raiseFault c info s).d1 = s.d1 := rfl
@[simp] theorem raiseFault_d2 (c : Cause) (info : Word) (s : State) : (raiseFault c info s).d2 = s.d2 := rfl
@[simp] theorem raiseFault_d3 (c : Cause) (info : Word) (s : State) : (raiseFault c info s).d3 = s.d3 := rfl
@[simp] theorem raiseFault_res0 (c : Cause) (info : Word) (s : State) : (raiseFault c info s).res0 = s.res0 := rfl
@[simp] theorem raiseFault_res1 (c : Cause) (info : Word) (s : State) : (raiseFault c info s).res1 = s.res1 := rfl
@[simp] theorem raiseFault_bstat (c : Cause) (info : Word) (s : State) : (raiseFault c info s).bstat = .faulted := rfl
@[simp] theorem raiseFault_fcause (c : Cause) (info : Word) (s : State) : (raiseFault c info s).fcause = some c := rfl
@[simp] theorem raiseFault_finfo (c : Cause) (info : Word) (s : State) : (raiseFault c info s).finfo = info := rfl
@[simp] theorem raiseFault_fphase (c : Cause) (info : Word) (s : State) : (raiseFault c info s).fphase = .none := rfl
@[simp] theorem raiseFault_pphase (c : Cause) (info : Word) (s : State) : (raiseFault c info s).pphase = .idle := rfl
@[simp] theorem raiseFault_pCh (c : Cause) (info : Word) (s : State) : (raiseFault c info s).pCh = s.pCh := rfl
@[simp] theorem raiseFault_pSrc (c : Cause) (info : Word) (s : State) : (raiseFault c info s).pSrc = s.pSrc := rfl
@[simp] theorem raiseFault_pLen (c : Cause) (info : Word) (s : State) : (raiseFault c info s).pLen = s.pLen := rfl
@[simp] theorem raiseFault_pIdx (c : Cause) (info : Word) (s : State) : (raiseFault c info s).pIdx = s.pIdx := rfl
@[simp] theorem raiseFault_pErr (c : Cause) (info : Word) (s : State) : (raiseFault c info s).pErr = s.pErr := rfl
@[simp] theorem raiseFault_pS (c : Cause) (info : Word) (s : State) : (raiseFault c info s).pS = s.pS := rfl
@[simp] theorem raiseFault_pD (c : Cause) (info : Word) (s : State) : (raiseFault c info s).pD = s.pD := rfl
@[simp] theorem raiseFault_pE (c : Cause) (info : Word) (s : State) : (raiseFault c info s).pE = s.pE := rfl
@[simp] theorem raiseFault_pBrg (c : Cause) (info : Word) (s : State) : (raiseFault c info s).pBrg = s.pBrg := rfl
@[simp] theorem raiseFault_curCfg (c : Cause) (info : Word) (s : State) : (raiseFault c info s).curCfg = s.curCfg := rfl
@[simp] theorem raiseFault_lenBuf (c : Cause) (info : Word) (s : State) : (raiseFault c info s).lenBuf = s.lenBuf := rfl
@[simp] theorem raiseFault_errSum (c : Cause) (info : Word) (s : State) : (raiseFault c info s).errSum = s.errSum := rfl
@[simp] theorem raiseFault_pktLen (c : Cause) (info : Word) (s : State) : (raiseFault c info s).pktLen = s.pktLen := rfl
@[simp] theorem raiseFault_recvLen (c : Cause) (info : Word) (s : State) : (raiseFault c info s).recvLen = s.recvLen := rfl
@[simp] theorem raiseFault_chans (c : Cause) (info : Word) (s : State) : (raiseFault c info s).chans = s.chans := rfl
@[simp] theorem raiseFault_mem (c : Cause) (info : Word) (s : State) : (raiseFault c info s).mem = s.mem := rfl
@[simp] theorem raiseFault_pending (c : Cause) (info : Word) (s : State) : (raiseFault c info s).pending = s.pending := rfl
@[simp] theorem raiseFault_turn (c : Cause) (info : Word) (s : State) : (raiseFault c info s).turn = s.turn := rfl
@[simp] theorem raiseFault_draws (c : Cause) (info : Word) (s : State) : (raiseFault c info s).draws = s.draws := rfl
@[simp] theorem raiseFault_hostData (c : Cause) (info : Word) (s : State) : (raiseFault c info s).hostData = s.hostData := rfl

/-! ## complete -/

@[simp] theorem complete_params (s : State) : (complete s).params = s.params := rfl
@[simp] theorem complete_d0 (s : State) : (complete s).d0 = s.d0 := rfl
@[simp] theorem complete_d1 (s : State) : (complete s).d1 = s.d1 := rfl
@[simp] theorem complete_d2 (s : State) : (complete s).d2 = s.d2 := rfl
@[simp] theorem complete_d3 (s : State) : (complete s).d3 = s.d3 := rfl
@[simp] theorem complete_res0 (s : State) : (complete s).res0 = s.res0 := rfl
@[simp] theorem complete_res1 (s : State) : (complete s).res1 = s.res1 := rfl
@[simp] theorem complete_bstat (s : State) : (complete s).bstat = .idle := rfl
@[simp] theorem complete_fcause (s : State) : (complete s).fcause = s.fcause := rfl
@[simp] theorem complete_finfo (s : State) : (complete s).finfo = s.finfo := rfl
@[simp] theorem complete_fphase (s : State) : (complete s).fphase = .none := rfl
@[simp] theorem complete_pphase (s : State) : (complete s).pphase = .idle := rfl
@[simp] theorem complete_pCh (s : State) : (complete s).pCh = s.pCh := rfl
@[simp] theorem complete_pSrc (s : State) : (complete s).pSrc = s.pSrc := rfl
@[simp] theorem complete_pLen (s : State) : (complete s).pLen = s.pLen := rfl
@[simp] theorem complete_pIdx (s : State) : (complete s).pIdx = s.pIdx := rfl
@[simp] theorem complete_pErr (s : State) : (complete s).pErr = s.pErr := rfl
@[simp] theorem complete_pS (s : State) : (complete s).pS = s.pS := rfl
@[simp] theorem complete_pD (s : State) : (complete s).pD = s.pD := rfl
@[simp] theorem complete_pE (s : State) : (complete s).pE = s.pE := rfl
@[simp] theorem complete_pBrg (s : State) : (complete s).pBrg = s.pBrg := rfl
@[simp] theorem complete_curCfg (s : State) : (complete s).curCfg = s.curCfg := rfl
@[simp] theorem complete_lenBuf (s : State) : (complete s).lenBuf = s.lenBuf := rfl
@[simp] theorem complete_errSum (s : State) : (complete s).errSum = s.errSum := rfl
@[simp] theorem complete_pktLen (s : State) : (complete s).pktLen = s.pktLen := rfl
@[simp] theorem complete_recvLen (s : State) : (complete s).recvLen = s.recvLen := rfl
@[simp] theorem complete_chans (s : State) : (complete s).chans = s.chans := rfl
@[simp] theorem complete_mem (s : State) : (complete s).mem = s.mem := rfl
@[simp] theorem complete_pending (s : State) : (complete s).pending = s.pending := rfl
@[simp] theorem complete_turn (s : State) : (complete s).turn = s.turn := rfl
@[simp] theorem complete_draws (s : State) : (complete s).draws = s.draws := rfl
@[simp] theorem complete_hostData (s : State) : (complete s).hostData = s.hostData := rfl

/-! ## startTx -/

@[simp] theorem startTx_params (c : Byte) (src : Source) (n : Word) (s : State) : (startTx c src n s).params = s.params := rfl
@[simp] theorem startTx_d0 (c : Byte) (src : Source) (n : Word) (s : State) : (startTx c src n s).d0 = s.d0 := rfl
@[simp] theorem startTx_d1 (c : Byte) (src : Source) (n : Word) (s : State) : (startTx c src n s).d1 = s.d1 := rfl
@[simp] theorem startTx_d2 (c : Byte) (src : Source) (n : Word) (s : State) : (startTx c src n s).d2 = s.d2 := rfl
@[simp] theorem startTx_d3 (c : Byte) (src : Source) (n : Word) (s : State) : (startTx c src n s).d3 = s.d3 := rfl
@[simp] theorem startTx_res0 (c : Byte) (src : Source) (n : Word) (s : State) : (startTx c src n s).res0 = s.res0 := rfl
@[simp] theorem startTx_res1 (c : Byte) (src : Source) (n : Word) (s : State) : (startTx c src n s).res1 = s.res1 := rfl
@[simp] theorem startTx_bstat (c : Byte) (src : Source) (n : Word) (s : State) : (startTx c src n s).bstat = s.bstat := rfl
@[simp] theorem startTx_fcause (c : Byte) (src : Source) (n : Word) (s : State) : (startTx c src n s).fcause = s.fcause := rfl
@[simp] theorem startTx_finfo (c : Byte) (src : Source) (n : Word) (s : State) : (startTx c src n s).finfo = s.finfo := rfl
@[simp] theorem startTx_fphase (c : Byte) (src : Source) (n : Word) (s : State) : (startTx c src n s).fphase = s.fphase := rfl
@[simp] theorem startTx_pphase (c : Byte) (src : Source) (n : Word) (s : State) : (startTx c src n s).pphase = .ptPoll := rfl
@[simp] theorem startTx_pCh (c : Byte) (src : Source) (n : Word) (s : State) : (startTx c src n s).pCh = c := rfl
@[simp] theorem startTx_pSrc (c : Byte) (src : Source) (n : Word) (s : State) : (startTx c src n s).pSrc = src := rfl
@[simp] theorem startTx_pLen (c : Byte) (src : Source) (n : Word) (s : State) : (startTx c src n s).pLen = n := rfl
@[simp] theorem startTx_pIdx (c : Byte) (src : Source) (n : Word) (s : State) : (startTx c src n s).pIdx = 0#32 := rfl
@[simp] theorem startTx_pErr (c : Byte) (src : Source) (n : Word) (s : State) : (startTx c src n s).pErr = s.pErr := rfl
@[simp] theorem startTx_pS (c : Byte) (src : Source) (n : Word) (s : State) : (startTx c src n s).pS = s.pS := rfl
@[simp] theorem startTx_pD (c : Byte) (src : Source) (n : Word) (s : State) : (startTx c src n s).pD = s.pD := rfl
@[simp] theorem startTx_pE (c : Byte) (src : Source) (n : Word) (s : State) : (startTx c src n s).pE = s.pE := rfl
@[simp] theorem startTx_pBrg (c : Byte) (src : Source) (n : Word) (s : State) : (startTx c src n s).pBrg = s.pBrg := rfl
@[simp] theorem startTx_curCfg (c : Byte) (src : Source) (n : Word) (s : State) : (startTx c src n s).curCfg = s.curCfg := rfl
@[simp] theorem startTx_lenBuf (c : Byte) (src : Source) (n : Word) (s : State) : (startTx c src n s).lenBuf = s.lenBuf := rfl
@[simp] theorem startTx_errSum (c : Byte) (src : Source) (n : Word) (s : State) : (startTx c src n s).errSum = s.errSum := rfl
@[simp] theorem startTx_pktLen (c : Byte) (src : Source) (n : Word) (s : State) : (startTx c src n s).pktLen = s.pktLen := rfl
@[simp] theorem startTx_recvLen (c : Byte) (src : Source) (n : Word) (s : State) : (startTx c src n s).recvLen = s.recvLen := rfl
@[simp] theorem startTx_chans (c : Byte) (src : Source) (n : Word) (s : State) : (startTx c src n s).chans = s.chans := rfl
@[simp] theorem startTx_mem (c : Byte) (src : Source) (n : Word) (s : State) : (startTx c src n s).mem = s.mem := rfl
@[simp] theorem startTx_pending (c : Byte) (src : Source) (n : Word) (s : State) : (startTx c src n s).pending = s.pending := rfl
@[simp] theorem startTx_turn (c : Byte) (src : Source) (n : Word) (s : State) : (startTx c src n s).turn = s.turn := rfl
@[simp] theorem startTx_draws (c : Byte) (src : Source) (n : Word) (s : State) : (startTx c src n s).draws = s.draws := rfl
@[simp] theorem startTx_hostData (c : Byte) (src : Source) (n : Word) (s : State) : (startTx c src n s).hostData = s.hostData := rfl

/-! ## startRx -/

@[simp] theorem startRx_params (c : Byte) (snk : Source) (n : Word) (e : ErrTarget) (s : State) : (startRx c snk n e s).params = s.params := rfl
@[simp] theorem startRx_d0 (c : Byte) (snk : Source) (n : Word) (e : ErrTarget) (s : State) : (startRx c snk n e s).d0 = s.d0 := rfl
@[simp] theorem startRx_d1 (c : Byte) (snk : Source) (n : Word) (e : ErrTarget) (s : State) : (startRx c snk n e s).d1 = s.d1 := rfl
@[simp] theorem startRx_d2 (c : Byte) (snk : Source) (n : Word) (e : ErrTarget) (s : State) : (startRx c snk n e s).d2 = s.d2 := rfl
@[simp] theorem startRx_d3 (c : Byte) (snk : Source) (n : Word) (e : ErrTarget) (s : State) : (startRx c snk n e s).d3 = s.d3 := rfl
@[simp] theorem startRx_res0 (c : Byte) (snk : Source) (n : Word) (e : ErrTarget) (s : State) : (startRx c snk n e s).res0 = s.res0 := rfl
@[simp] theorem startRx_res1 (c : Byte) (snk : Source) (n : Word) (e : ErrTarget) (s : State) : (startRx c snk n e s).res1 = s.res1 := rfl
@[simp] theorem startRx_bstat (c : Byte) (snk : Source) (n : Word) (e : ErrTarget) (s : State) : (startRx c snk n e s).bstat = s.bstat := rfl
@[simp] theorem startRx_fcause (c : Byte) (snk : Source) (n : Word) (e : ErrTarget) (s : State) : (startRx c snk n e s).fcause = s.fcause := rfl
@[simp] theorem startRx_finfo (c : Byte) (snk : Source) (n : Word) (e : ErrTarget) (s : State) : (startRx c snk n e s).finfo = s.finfo := rfl
@[simp] theorem startRx_fphase (c : Byte) (snk : Source) (n : Word) (e : ErrTarget) (s : State) : (startRx c snk n e s).fphase = s.fphase := rfl
@[simp] theorem startRx_pphase (c : Byte) (snk : Source) (n : Word) (e : ErrTarget) (s : State) : (startRx c snk n e s).pphase = .prPoll := rfl
@[simp] theorem startRx_pCh (c : Byte) (snk : Source) (n : Word) (e : ErrTarget) (s : State) : (startRx c snk n e s).pCh = c := rfl
@[simp] theorem startRx_pSrc (c : Byte) (snk : Source) (n : Word) (e : ErrTarget) (s : State) : (startRx c snk n e s).pSrc = snk := rfl
@[simp] theorem startRx_pLen (c : Byte) (snk : Source) (n : Word) (e : ErrTarget) (s : State) : (startRx c snk n e s).pLen = n := rfl
@[simp] theorem startRx_pIdx (c : Byte) (snk : Source) (n : Word) (e : ErrTarget) (s : State) : (startRx c snk n e s).pIdx = 0#32 := rfl
@[simp] theorem startRx_pErr (c : Byte) (snk : Source) (n : Word) (e : ErrTarget) (s : State) : (startRx c snk n e s).pErr = e := rfl
@[simp] theorem startRx_pS (c : Byte) (snk : Source) (n : Word) (e : ErrTarget) (s : State) : (startRx c snk n e s).pS = s.pS := rfl
@[simp] theorem startRx_pD (c : Byte) (snk : Source) (n : Word) (e : ErrTarget) (s : State) : (startRx c snk n e s).pD = s.pD := rfl
@[simp] theorem startRx_pE (c : Byte) (snk : Source) (n : Word) (e : ErrTarget) (s : State) : (startRx c snk n e s).pE = s.pE := rfl
@[simp] theorem startRx_pBrg (c : Byte) (snk : Source) (n : Word) (e : ErrTarget) (s : State) : (startRx c snk n e s).pBrg = s.pBrg := rfl
@[simp] theorem startRx_curCfg (c : Byte) (snk : Source) (n : Word) (e : ErrTarget) (s : State) : (startRx c snk n e s).curCfg = s.curCfg := rfl
@[simp] theorem startRx_lenBuf (c : Byte) (snk : Source) (n : Word) (e : ErrTarget) (s : State) : (startRx c snk n e s).lenBuf = s.lenBuf := rfl
@[simp] theorem startRx_errSum (c : Byte) (snk : Source) (n : Word) (e : ErrTarget) (s : State) : (startRx c snk n e s).errSum = s.errSum := rfl
@[simp] theorem startRx_pktLen (c : Byte) (snk : Source) (n : Word) (e : ErrTarget) (s : State) : (startRx c snk n e s).pktLen = s.pktLen := rfl
@[simp] theorem startRx_recvLen (c : Byte) (snk : Source) (n : Word) (e : ErrTarget) (s : State) : (startRx c snk n e s).recvLen = s.recvLen := rfl
@[simp] theorem startRx_chans (c : Byte) (snk : Source) (n : Word) (e : ErrTarget) (s : State) : (startRx c snk n e s).chans = s.chans := rfl
@[simp] theorem startRx_mem (c : Byte) (snk : Source) (n : Word) (e : ErrTarget) (s : State) : (startRx c snk n e s).mem = s.mem := rfl
@[simp] theorem startRx_pending (c : Byte) (snk : Source) (n : Word) (e : ErrTarget) (s : State) : (startRx c snk n e s).pending = s.pending := rfl
@[simp] theorem startRx_turn (c : Byte) (snk : Source) (n : Word) (e : ErrTarget) (s : State) : (startRx c snk n e s).turn = s.turn := rfl
@[simp] theorem startRx_draws (c : Byte) (snk : Source) (n : Word) (e : ErrTarget) (s : State) : (startRx c snk n e s).draws = s.draws := rfl
@[simp] theorem startRx_hostData (c : Byte) (snk : Source) (n : Word) (e : ErrTarget) (s : State) : (startRx c snk n e s).hostData = s.hostData := rfl

/-! ## latch -/

@[simp] theorem latch_params (d : Descriptor) (s : State) : (latch d s).params = s.params := rfl
@[simp] theorem latch_d0 (d : Descriptor) (s : State) : (latch d s).d0 = d.w0 := rfl
@[simp] theorem latch_d1 (d : Descriptor) (s : State) : (latch d s).d1 = d.w1 := rfl
@[simp] theorem latch_d2 (d : Descriptor) (s : State) : (latch d s).d2 = d.w2 := rfl
@[simp] theorem latch_d3 (d : Descriptor) (s : State) : (latch d s).d3 = d.w3 := rfl
@[simp] theorem latch_res0 (d : Descriptor) (s : State) : (latch d s).res0 = s.res0 := rfl
@[simp] theorem latch_res1 (d : Descriptor) (s : State) : (latch d s).res1 = s.res1 := rfl
@[simp] theorem latch_bstat (d : Descriptor) (s : State) : (latch d s).bstat = .busy := rfl
@[simp] theorem latch_fcause (d : Descriptor) (s : State) : (latch d s).fcause = s.fcause := rfl
@[simp] theorem latch_finfo (d : Descriptor) (s : State) : (latch d s).finfo = s.finfo := rfl
@[simp] theorem latch_fphase (d : Descriptor) (s : State) : (latch d s).fphase = .none := rfl
@[simp] theorem latch_pphase (d : Descriptor) (s : State) : (latch d s).pphase = .idle := rfl
@[simp] theorem latch_pCh (d : Descriptor) (s : State) : (latch d s).pCh = s.pCh := rfl
@[simp] theorem latch_pSrc (d : Descriptor) (s : State) : (latch d s).pSrc = s.pSrc := rfl
@[simp] theorem latch_pLen (d : Descriptor) (s : State) : (latch d s).pLen = s.pLen := rfl
@[simp] theorem latch_pIdx (d : Descriptor) (s : State) : (latch d s).pIdx = s.pIdx := rfl
@[simp] theorem latch_pErr (d : Descriptor) (s : State) : (latch d s).pErr = s.pErr := rfl
@[simp] theorem latch_pS (d : Descriptor) (s : State) : (latch d s).pS = s.pS := rfl
@[simp] theorem latch_pD (d : Descriptor) (s : State) : (latch d s).pD = s.pD := rfl
@[simp] theorem latch_pE (d : Descriptor) (s : State) : (latch d s).pE = s.pE := rfl
@[simp] theorem latch_pBrg (d : Descriptor) (s : State) : (latch d s).pBrg = s.pBrg := rfl
@[simp] theorem latch_curCfg (d : Descriptor) (s : State) : (latch d s).curCfg = s.curCfg := rfl
@[simp] theorem latch_lenBuf (d : Descriptor) (s : State) : (latch d s).lenBuf = s.lenBuf := rfl
@[simp] theorem latch_errSum (d : Descriptor) (s : State) : (latch d s).errSum = s.errSum := rfl
@[simp] theorem latch_pktLen (d : Descriptor) (s : State) : (latch d s).pktLen = s.pktLen := rfl
@[simp] theorem latch_recvLen (d : Descriptor) (s : State) : (latch d s).recvLen = s.recvLen := rfl
@[simp] theorem latch_chans (d : Descriptor) (s : State) : (latch d s).chans = s.chans := rfl
@[simp] theorem latch_mem (d : Descriptor) (s : State) : (latch d s).mem = s.mem := rfl
@[simp] theorem latch_pending (d : Descriptor) (s : State) : (latch d s).pending = s.pending := rfl
@[simp] theorem latch_turn (d : Descriptor) (s : State) : (latch d s).turn = s.turn := rfl
@[simp] theorem latch_draws (d : Descriptor) (s : State) : (latch d s).draws = s.draws := rfl
@[simp] theorem latch_hostData (d : Descriptor) (s : State) : (latch d s).hostData = s.hostData := rfl

/-! ## blockReset -/

@[simp] theorem blockReset_params (ds : List Draw) (s : State) : (blockReset ds s).params = s.params := rfl
@[simp] theorem blockReset_d0 (ds : List Draw) (s : State) : (blockReset ds s).d0 = 0#32 := rfl
@[simp] theorem blockReset_d1 (ds : List Draw) (s : State) : (blockReset ds s).d1 = 0#32 := rfl
@[simp] theorem blockReset_d2 (ds : List Draw) (s : State) : (blockReset ds s).d2 = 0#32 := rfl
@[simp] theorem blockReset_d3 (ds : List Draw) (s : State) : (blockReset ds s).d3 = 0#32 := rfl
@[simp] theorem blockReset_res0 (ds : List Draw) (s : State) : (blockReset ds s).res0 = 0#32 := rfl
@[simp] theorem blockReset_res1 (ds : List Draw) (s : State) : (blockReset ds s).res1 = 0#32 := rfl
@[simp] theorem blockReset_bstat (ds : List Draw) (s : State) : (blockReset ds s).bstat = .idle := rfl
@[simp] theorem blockReset_fcause (ds : List Draw) (s : State) : (blockReset ds s).fcause = none := rfl
@[simp] theorem blockReset_finfo (ds : List Draw) (s : State) : (blockReset ds s).finfo = 0#32 := rfl
@[simp] theorem blockReset_fphase (ds : List Draw) (s : State) : (blockReset ds s).fphase = .none := rfl
@[simp] theorem blockReset_pphase (ds : List Draw) (s : State) : (blockReset ds s).pphase = .idle := rfl
@[simp] theorem blockReset_pCh (ds : List Draw) (s : State) : (blockReset ds s).pCh = 0#8 := rfl
@[simp] theorem blockReset_pSrc (ds : List Draw) (s : State) : (blockReset ds s).pSrc = .null := rfl
@[simp] theorem blockReset_pLen (ds : List Draw) (s : State) : (blockReset ds s).pLen = 0#32 := rfl
@[simp] theorem blockReset_pIdx (ds : List Draw) (s : State) : (blockReset ds s).pIdx = 0#32 := rfl
@[simp] theorem blockReset_pErr (ds : List Draw) (s : State) : (blockReset ds s).pErr = .none := rfl
@[simp] theorem blockReset_pS (ds : List Draw) (s : State) : (blockReset ds s).pS = 0#32 := rfl
@[simp] theorem blockReset_pD (ds : List Draw) (s : State) : (blockReset ds s).pD = 0#8 := rfl
@[simp] theorem blockReset_pE (ds : List Draw) (s : State) : (blockReset ds s).pE = 0#8 := rfl
@[simp] theorem blockReset_pBrg (ds : List Draw) (s : State) : (blockReset ds s).pBrg = 0#16 := rfl
@[simp] theorem blockReset_curCfg (ds : List Draw) (s : State) : (blockReset ds s).curCfg = 0#8 := rfl
@[simp] theorem blockReset_lenBuf (ds : List Draw) (s : State) : (blockReset ds s).lenBuf = ⟨0#8, 0#8, 0#8, 0#8⟩ := rfl
@[simp] theorem blockReset_errSum (ds : List Draw) (s : State) : (blockReset ds s).errSum = 0#8 := rfl
@[simp] theorem blockReset_pktLen (ds : List Draw) (s : State) : (blockReset ds s).pktLen = 0#32 := rfl
@[simp] theorem blockReset_recvLen (ds : List Draw) (s : State) : (blockReset ds s).recvLen = 0#32 := rfl
@[simp] theorem blockReset_chans (ds : List Draw) (s : State) : (blockReset ds s).chans = (List.range s.params.nChannels).map fun i => Channel.afterReset s.params (ds.getD i Draw.zero) := rfl
@[simp] theorem blockReset_mem (ds : List Draw) (s : State) : (blockReset ds s).mem = s.mem := rfl
@[simp] theorem blockReset_pending (ds : List Draw) (s : State) : (blockReset ds s).pending = s.pending := rfl
@[simp] theorem blockReset_turn (ds : List Draw) (s : State) : (blockReset ds s).turn = s.turn := rfl
@[simp] theorem blockReset_draws (ds : List Draw) (s : State) : (blockReset ds s).draws = s.draws := rfl
@[simp] theorem blockReset_hostData (ds : List Draw) (s : State) : (blockReset ds s).hostData = s.hostData := rfl

/-! ## setChan -/

@[simp] theorem setChan_params (s : State) (c : Nat) (ch : Channel) : (s.setChan c ch).params = s.params := by cases c <;> rfl
@[simp] theorem setChan_d0 (s : State) (c : Nat) (ch : Channel) : (s.setChan c ch).d0 = s.d0 := by cases c <;> rfl
@[simp] theorem setChan_d1 (s : State) (c : Nat) (ch : Channel) : (s.setChan c ch).d1 = s.d1 := by cases c <;> rfl
@[simp] theorem setChan_d2 (s : State) (c : Nat) (ch : Channel) : (s.setChan c ch).d2 = s.d2 := by cases c <;> rfl
@[simp] theorem setChan_d3 (s : State) (c : Nat) (ch : Channel) : (s.setChan c ch).d3 = s.d3 := by cases c <;> rfl
@[simp] theorem setChan_res0 (s : State) (c : Nat) (ch : Channel) : (s.setChan c ch).res0 = s.res0 := by cases c <;> rfl
@[simp] theorem setChan_res1 (s : State) (c : Nat) (ch : Channel) : (s.setChan c ch).res1 = s.res1 := by cases c <;> rfl
@[simp] theorem setChan_bstat (s : State) (c : Nat) (ch : Channel) : (s.setChan c ch).bstat = s.bstat := by cases c <;> rfl
@[simp] theorem setChan_fcause (s : State) (c : Nat) (ch : Channel) : (s.setChan c ch).fcause = s.fcause := by cases c <;> rfl
@[simp] theorem setChan_finfo (s : State) (c : Nat) (ch : Channel) : (s.setChan c ch).finfo = s.finfo := by cases c <;> rfl
@[simp] theorem setChan_fphase (s : State) (c : Nat) (ch : Channel) : (s.setChan c ch).fphase = s.fphase := by cases c <;> rfl
@[simp] theorem setChan_pphase (s : State) (c : Nat) (ch : Channel) : (s.setChan c ch).pphase = s.pphase := by cases c <;> rfl
@[simp] theorem setChan_pCh (s : State) (c : Nat) (ch : Channel) : (s.setChan c ch).pCh = s.pCh := by cases c <;> rfl
@[simp] theorem setChan_pSrc (s : State) (c : Nat) (ch : Channel) : (s.setChan c ch).pSrc = s.pSrc := by cases c <;> rfl
@[simp] theorem setChan_pLen (s : State) (c : Nat) (ch : Channel) : (s.setChan c ch).pLen = s.pLen := by cases c <;> rfl
@[simp] theorem setChan_pIdx (s : State) (c : Nat) (ch : Channel) : (s.setChan c ch).pIdx = s.pIdx := by cases c <;> rfl
@[simp] theorem setChan_pErr (s : State) (c : Nat) (ch : Channel) : (s.setChan c ch).pErr = s.pErr := by cases c <;> rfl
@[simp] theorem setChan_pS (s : State) (c : Nat) (ch : Channel) : (s.setChan c ch).pS = s.pS := by cases c <;> rfl
@[simp] theorem setChan_pD (s : State) (c : Nat) (ch : Channel) : (s.setChan c ch).pD = s.pD := by cases c <;> rfl
@[simp] theorem setChan_pE (s : State) (c : Nat) (ch : Channel) : (s.setChan c ch).pE = s.pE := by cases c <;> rfl
@[simp] theorem setChan_pBrg (s : State) (c : Nat) (ch : Channel) : (s.setChan c ch).pBrg = s.pBrg := by cases c <;> rfl
@[simp] theorem setChan_curCfg (s : State) (c : Nat) (ch : Channel) : (s.setChan c ch).curCfg = s.curCfg := by cases c <;> rfl
@[simp] theorem setChan_lenBuf (s : State) (c : Nat) (ch : Channel) : (s.setChan c ch).lenBuf = s.lenBuf := by cases c <;> rfl
@[simp] theorem setChan_errSum (s : State) (c : Nat) (ch : Channel) : (s.setChan c ch).errSum = s.errSum := by cases c <;> rfl
@[simp] theorem setChan_pktLen (s : State) (c : Nat) (ch : Channel) : (s.setChan c ch).pktLen = s.pktLen := by cases c <;> rfl
@[simp] theorem setChan_recvLen (s : State) (c : Nat) (ch : Channel) : (s.setChan c ch).recvLen = s.recvLen := by cases c <;> rfl
@[simp] theorem setChan_mem (s : State) (c : Nat) (ch : Channel) : (s.setChan c ch).mem = s.mem := by cases c <;> rfl
@[simp] theorem setChan_pending (s : State) (c : Nat) (ch : Channel) : (s.setChan c ch).pending = s.pending := by cases c <;> rfl
@[simp] theorem setChan_turn (s : State) (c : Nat) (ch : Channel) : (s.setChan c ch).turn = s.turn := by cases c <;> rfl
@[simp] theorem setChan_draws (s : State) (c : Nat) (ch : Channel) : (s.setChan c ch).draws = s.draws := by cases c <;> rfl
@[simp] theorem setChan_hostData (s : State) (c : Nat) (ch : Channel) : (s.setChan c ch).hostData = s.hostData := by cases c <;> rfl

@[simp] theorem setChan_chans_length (s : State) (c : Nat) (ch : Channel) :
    (s.setChan c ch).chans.length = s.chans.length := by
  cases c <;> simp [State.setChan]

@[simp] theorem chan?_zero (s : State) : s.chan? 0 = none := rfl

theorem chan?_pos {s : State} {c : Nat} {ch : Channel} (h : s.chan? c = some ch) : 1 ≤ c := by
  cases c with
  | zero => simp at h
  | succ k => omega

/-- A channel that exists has a number up to the number of channels. -/
theorem chan?_le {s : State} {c : Nat} {ch : Channel} (h : s.chan? c = some ch) : c ≤ s.chans.length := by
  cases c with
  | zero => omega
  | succ k =>
    obtain ⟨hk, -⟩ := List.getElem?_eq_some_iff.mp (show s.chans[k]? = some ch from h)
    omega

/-- Every number from 1 to the number of channels has a channel. -/
theorem chan?_exists {s : State} {c : Nat} (h1 : 1 ≤ c) (h2 : c ≤ s.chans.length) : ∃ ch, s.chan? c = some ch := by
  cases c with
  | zero => omega
  | succ k => exact ⟨s.chans[k]'(by omega), List.getElem?_eq_getElem (by omega)⟩

/-- Reading the channel just replaced. -/
theorem chan?_setChan_same {s : State} {c : Nat} {ch : Channel} (ch' : Channel) (h : s.chan? c = some ch) :
    (s.setChan c ch').chan? c = some ch' := by
  cases c with
  | zero => simp at h
  | succ k =>
    have hk := chan?_le h
    simp [State.setChan, State.chan?, List.getElem?_set]
    omega

/-- Reading any other channel. -/
theorem chan?_setChan_other {s : State} {c c' : Nat} (ch : Channel) (h : c' ≠ c) :
    (s.setChan c ch).chan? c' = s.chan? c' := by
  cases c with
  | zero => rfl
  | succ k =>
    cases c' with
    | zero => rfl
    | succ j =>
      simp only [State.setChan, State.chan?]
      exact List.getElem?_set_ne (by omega)

/-- Replacing a channel by itself changes nothing. -/
theorem setChan_self {s : State} {c : Nat} {ch : Channel} (h : s.chan? c = some ch) : s.setChan c ch = s := by
  cases c with
  | zero => rfl
  | succ k =>
    obtain ⟨hk, he⟩ := List.getElem?_eq_some_iff.mp (show s.chans[k]? = some ch from h)
    subst he
    simp [State.setChan]

/-- A channel depends on nothing but the list of channels. -/
theorem chan?_congr {s t : State} (h : t.chans = s.chans) (c : Nat) : t.chan? c = s.chan? c := by
  cases c <;> simp [State.chan?, h]

end Sys2Proof.Machine
end

