-- ==== Sys2Proof/Laws/Ops.lean ====
section
/-! SUPPORT. For each shared operation one lemma that says once everything it can do, for proofs to cite instead of
unfolding it. -/

namespace Sys2Proof.Machine

/-! ## The checks of an operation's first step -/

theorem checkChannel_ok {p : Params} {c : Nat} : checkChannel p c = .ok () ↔ 1 ≤ c ∧ c ≤ p.nChannels := by
  unfold checkChannel
  split <;> simp <;> omega

theorem checkChannel_error {p : Params} {c : Nat} (h : c = 0 ∨ p.nChannels < c) :
    checkChannel p c = .error (.badChannel, BitVec.ofNat 32 c) := if_pos h

theorem checkReady_ok {s : State} {c : Nat} : checkReady s c = .ok () ↔ s.isReady c = true := by
  unfold checkReady
  split <;> simp_all

theorem checkRange_ok {p : Params} {a : Word} {n : Nat} : checkRange p a n = .ok () ↔ admitted p a.toNat n = true := by
  unfold checkRange
  split <;> simp_all

theorem word_pos {n : Word} : 0#32 < n ↔ n ≠ 0#32 := by
  rw [BitVec.lt_def, Ne, BitVec.toNat_inj.symm]
  simp only [BitVec.toNat_ofNat, Nat.zero_mod]
  omega

theorem checkNull_ok {a n : Word} : checkNull a n = .ok () ↔ n = 0#32 ∨ a ≠ 0#32 := by
  have h := word_pos (n := n)
  unfold checkNull
  split <;> simp only [reduceCtorEq, false_iff, true_iff] <;> tauto

theorem admitted_zero (p : Params) (a : Nat) : admitted p a 0 = true := by simp [admitted]

theorem checkTx_ok {s : State} {c : Nat} {a n : Word} :
    checkTx s c a n = .ok () ↔
      (1 ≤ c ∧ c ≤ s.params.nChannels) ∧ s.isReady c = true ∧ (n = 0#32 ∨ a ≠ 0#32) ∧
        admitted s.params a.toNat n.toNat = true := by
  rw [← checkChannel_ok, ← checkReady_ok, ← checkNull_ok, ← checkRange_ok]
  unfold checkTx
  cases checkChannel s.params c <;> simp [Except.bind]
  cases checkReady s c <;> simp
  cases checkNull a n <;> simp

theorem checkChRx_ok {s : State} {c : Nat} {b m : Word} :
    checkChRx s c b m = .ok () ↔
      (1 ≤ c ∧ c ≤ s.params.nChannels) ∧ s.isReady c = true ∧ (m = 0#32 ∨ b ≠ 0#32) ∧
        admitted s.params b.toNat m.toNat = true := checkTx_ok

theorem baudDivisor_of_fits {p : Params} {baud : Word} (hb : baud ≠ 0#32) (h1 : 1 ≤ baudQuotient p.pclkHz baud.toNat)
    (h2 : baudQuotient p.pclkHz baud.toNat ≤ 65536) :
    baudDivisor p baud = .ok (BitVec.ofNat 16 (baudQuotient p.pclkHz baud.toNat - 1)) := by
  unfold baudDivisor
  rw [if_neg hb]
  exact if_neg (by omega)

theorem baudDivisor_of_out_of_range {p : Params} {baud : Word} (hb : baud ≠ 0#32)
    (h : baudQuotient p.pclkHz baud.toNat = 0 ∨ 65536 < baudQuotient p.pclkHz baud.toNat) :
    baudDivisor p baud = .error (.baudRange, baud) := by
  unfold baudDivisor
  rw [if_neg hb]
  exact if_pos (by omega)

/-! ## The memory that a step accesses -/

/-- Step 1 of an operation accesses no caller memory. -/
theorem ranges_of_atStart {i : Instr} {s : State} (h : s.atStart = true) :
    fetchedRanges i s = [] ∧ storedRanges i s = [] := by
  obtain ⟨hf, hp⟩ : s.fphase = .none ∧ s.pphase = .idle := by simpa [State.atStart] using h
  simp [fetchedRanges, storedRanges, hf, hp]

/-- FPHASE leaves the step to the port engine: it names no transform step and not CR_RESULT (R44). -/
def State.portTurn (s : State) : Prop := s.fphase ≠ .ctEncode ∧ s.fphase ≠ .crDecode ∧ s.fphase ≠ .crResult

/-- A transform step reads the range that it writes (R192). -/
theorem fetchedRanges_eq_storedRanges {i : Instr} {s : State} (h : ¬s.portTurn) : fetchedRanges i s = storedRanges i s := by
  unfold fetchedRanges storedRanges
  cases hf : s.fphase <;> simp_all [State.portTurn]

theorem fetchedRanges_ptFetch {i : Instr} {s : State} {a : Word} (h : s.portTurn) (hp : s.pphase = .ptFetch)
    (hs : s.pSrc = .mem a) : fetchedRanges i s = [(byteAddr a s.pIdx, 1)] ∧ storedRanges i s = [] := by
  unfold fetchedRanges storedRanges
  cases hf : s.fphase <;> simp_all [State.portTurn]

theorem fetchedRanges_prMrd {i : Instr} {s : State} {e : Word} (h : s.portTurn) (hp : s.pphase = .prMrd)
    (he : s.pErr = .mem e) : fetchedRanges i s = [(e.toNat, 1)] ∧ storedRanges i s = [] := by
  unfold fetchedRanges storedRanges
  cases hf : s.fphase <;> simp_all [State.portTurn]

theorem storedRanges_prMwr {i : Instr} {s : State} {e : Word} (h : s.portTurn) (hp : s.pphase = .prMwr)
    (he : s.pErr = .mem e) : storedRanges i s = [(e.toNat, 1)] ∧ fetchedRanges i s = [] := by
  unfold fetchedRanges storedRanges
  cases hf : s.fphase <;> simp_all [State.portTurn]

theorem storedRanges_prStore {i : Instr} {s : State} {b : Word} (h : s.portTurn) (hp : s.pphase = .prStore)
    (hs : s.pSrc = .mem b) : storedRanges i s = [(byteAddr b s.pIdx, 1)] ∧ fetchedRanges i s = [] := by
  unfold fetchedRanges storedRanges
  cases hf : s.fphase <;> simp_all [State.portTurn]

/-! ## Accesses -/

theorem memRead_ok {s : State} {a : Nat} {b : Byte} : memRead s a = .ok b ↔ a < 4294967296 ∧ b = Memory.read s.mem a := by
  unfold memRead
  split <;> simp_all [eq_comm]

theorem memWrite_ok {s t : State} {a : Nat} {v : Byte} :
    memWrite s a v = .ok t ↔ a < 4294967296 ∧ t = { s with mem := Memory.write s.mem a v } := by
  unfold memWrite
  split <;> simp_all [eq_comm]

theorem memRead_of_lt {s : State} {a : Nat} (h : a < 4294967296) : memRead s a = .ok (Memory.read s.mem a) :=
  memRead_ok.mpr ⟨h, rfl⟩

theorem memWrite_of_lt {s : State} {a : Nat} (v : Byte) (h : a < 4294967296) :
    memWrite s a v = .ok { s with mem := Memory.write s.mem a v } :=
  memWrite_ok.mpr ⟨h, rfl⟩

/-- A write of a register of a channel that exists. -/
theorem regWrite_of_chan {s : State} {c : Nat} {ch : Channel} (h : s.chan? c = some ch) (r : Reg) (v : Word) :
    regWrite s c r v = .ok (s.setChan c (ch.writeReg s.params r v)) := by
  simp [regWrite, h]

theorem regWrite_ok {s t : State} {c : Nat} {r : Reg} {v : Word} :
    regWrite s c r v = .ok t ↔ ∃ ch, s.chan? c = some ch ∧ t = s.setChan c (ch.writeReg s.params r v) := by
  cases h : s.chan? c with
  | none => simp [regWrite, h]
  | some ch => simp only [regWrite, h, Except.ok.injEq, Option.some.injEq, exists_eq_left', eq_comm]

/-- A read of STATUS of a channel that exists. -/
theorem regRead_status_of_chan {s : State} {c : Nat} {ch : Channel} (h : s.chan? c = some ch) :
    regRead s c .status = .ok (ch.statusWord s.params.txDepth, s) := by
  simp [regRead, h]

theorem regRead_status_ok {s t : State} {c : Nat} {w : Word} :
    regRead s c .status = .ok (w, t) ↔
      ∃ ch, s.chan? c = some ch ∧ w = ch.statusWord s.params.txDepth ∧ t = s := by
  cases h : s.chan? c with
  | none => simp [regRead, h]
  | some ch => simp only [regRead, h, Except.ok.injEq, Prod.mk.injEq, Option.some.injEq, exists_eq_left', eq_comm]

/-- A read of RXREG of a channel whose receive FIFO is not empty. -/
theorem regRead_rxreg_of_entry {s : State} {c : Nat} {ch : Channel} {x : RxEntry} {xs : List RxEntry}
    (h : s.chan? c = some ch) (hf : ch.rxfifo = x :: xs) :
    regRead s c .rxreg = .ok (x.data.setWidth 32, s.setChan c { ch with rxfifo := xs }) := by
  simp [regRead, readRxreg, h, hf]

/-- A read of RXREG of a channel whose receive FIFO is empty. -/
theorem regRead_rxreg_of_empty {s : State} {c : Nat} {ch : Channel} (h : s.chan? c = some ch) (hf : ch.rxfifo = []) :
    regRead s c .rxreg = .ok ((Config.emptyRxByte s.draws).setWidth 32, { s with draws := s.draws + 1 }) := by
  simp [regRead, readRxreg, h, hf]

/-- A register of a channel that does not exist is never accessed. -/
theorem regRead_of_no_chan {s : State} {c : Nat} (h : s.chan? c = none) (r : Reg) :
    regRead s c r = .error .noChannel := by
  simp [regRead, h]

/-! ## The peripheral's registers -/

theorem writeMode_of_set (ch : Channel) {v : Word} (h : v.getLsbD 0 = true) : ch.writeMode v = { ch with on := true } := by
  simp only [Channel.writeMode, h, if_true]

theorem writeMode_of_clear (ch : Channel) {v : Word} (h : v.getLsbD 0 = false) :
    ch.writeMode v = { ch with on := false, rxfifo := [], txbuf := [], oerr := false } := by
  simp only [Channel.writeMode, h, Bool.false_eq_true, if_false]

theorem writeTxreg_of_room {txDepth : Nat} {ch : Channel} (v : Word) (h1 : ch.on = true) (h2 : ch.txbuf.length < txDepth) :
    ch.writeTxreg txDepth v = { ch with txbuf := ch.txbuf ++ [v.extractLsb' 0 8] } := by
  simp [Channel.writeTxreg, h1, h2]

theorem writeTxreg_of_no_room {txDepth : Nat} {ch : Channel} (v : Word)
    (h : ¬(ch.on = true ∧ ch.txbuf.length < txDepth)) : ch.writeTxreg txDepth v = ch := by
  simp only [Channel.writeTxreg]
  exact if_neg h

/-! ## The fields of a STATUS value that has been read -/

@[simp] theorem statusWord_rxda (d : Nat) (ch : Channel) : Status.rxda (ch.statusWord d) = ch.rxda := by
  simp only [Status.rxda, Channel.statusWord, bit, BitVec.getLsbD_append]
  simp

@[simp] theorem statusWord_oerr (d : Nat) (ch : Channel) : Status.oerr (ch.statusWord d) = ch.oerr := by
  simp only [Status.oerr, Channel.statusWord, bit, BitVec.getLsbD_append]
  simp

@[simp] theorem statusWord_ferr (d : Nat) (ch : Channel) : Status.ferr (ch.statusWord d) = ch.ferr := by
  simp only [Status.ferr, Channel.statusWord, bit, BitVec.getLsbD_append]
  simp

@[simp] theorem statusWord_perr (d : Nat) (ch : Channel) : Status.perr (ch.statusWord d) = ch.perr := by
  simp only [Status.perr, Channel.statusWord, bit, BitVec.getLsbD_append]
  simp

@[simp] theorem statusWord_txbf (d : Nat) (ch : Channel) : Status.txbf (ch.statusWord d) = ch.txbf d := by
  simp only [Status.txbf, Channel.statusWord, bit, BitVec.getLsbD_append]
  simp

theorem statusWord_txen (d : Nat) (ch : Channel) : (ch.statusWord d).getLsbD 8 = ch.txen := by
  simp only [Channel.statusWord, bit, BitVec.getLsbD_append]
  simp

theorem statusWord_rxen (d : Nat) (ch : Channel) : (ch.statusWord d).getLsbD 9 = ch.rxen := by
  simp only [Channel.statusWord, bit, BitVec.getLsbD_append]
  simp

/-- The overrun clear keeps every bit but bit 1. -/
theorem overrunClear_bit (w : Word) (i : Nat) :
    (overrunClear w).getLsbD i = (w.getLsbD i && decide (i ≠ 1)) := by
  simp only [overrunClear, BitVec.getLsbD_and, BitVec.getLsbD_not]
  by_cases h : i < 32
  · have : ∀ j : Fin 32, (2#32).getLsbD j = decide ((j : Nat) = 1) := by decide
    have := this ⟨i, h⟩
    simp_all
  · simp [BitVec.getLsbD_of_ge w i (by omega)]

/-- The overrun clear of a STATUS value just read clears OERR and changes nothing else (R168). -/
theorem writeStatus_overrunClear (d : Nat) (ch : Channel) :
    ch.writeStatus (overrunClear (ch.statusWord d)) = { ch with oerr := false } := by
  simp only [Channel.writeStatus, overrunClear_bit, statusWord_txen, statusWord_rxen]
  simp

/-! ## The line agents and the transform -/

theorem lineTx_enabled {ch : Channel} {b : Byte} {bs : List Byte} (h1 : ch.on = true) (h2 : ch.txen = true)
    (h3 : ch.txbuf = b :: bs) : ch.lineTx = { ch with txbuf := bs, wireOut := ch.wireOut ++ [b] } := by
  simp [Channel.lineTx, h1, h2, h3]

theorem lineTx_disabled {ch : Channel} (h : ¬(ch.on = true ∧ ch.txen = true ∧ ch.txbuf ≠ [])) : ch.lineTx = ch := by
  unfold Channel.lineTx
  split
  · cases hb : ch.txbuf with
    | nil => rfl
    | cons b bs => simp_all
  · rfl

@[simp] theorem applyTransform_length (t : Transform) (d : Dir) (bs : List Byte) :
    (applyTransform t d bs).length = bs.length := by
  cases t <;> simp [applyTransform]

/-- A transform leaves every address outside its range alone. -/
theorem read_transformMem_outside {t : Transform} {d : Dir} (m : List Host.Cell) {a n x : Nat}
    (h : x < a ∨ a + n ≤ x) : Memory.read (transformMem t d m a n) x = Memory.read m x := by
  apply Memory.read_writeRange_outside
  simpa using h

/-- A transform inside the address space keeps the canonical form. -/
theorem transformMem_wf {t : Transform} {d : Dir} {m : List Host.Cell} {a n : Nat} (hm : Memory.wf m = true)
    (h : a + n ≤ 4294967296) : Memory.wf (transformMem t d m a n) = true := by
  apply Memory.writeRange_wf hm
  simpa using h

theorem transformRange_ok {s t : State} {d : Dir} {a n : Nat} :
    transformRange s d a n = .ok t ↔
      ∃ g, s.params.configs[s.curCfg.toNat]? = some g ∧
        ((g.transform = none ∨ n = 0) ∧ t = s ∨
          ∃ x, g.transform = some x ∧ n ≠ 0 ∧ a + n ≤ 4294967296 ∧ t = { s with mem := transformMem x d s.mem a n }) := by
  unfold transformRange
  cases hg : s.params.configs[s.curCfg.toNat]? with
  | none => simp
  | some g =>
    cases ht : g.transform with
    | none => simp [eq_comm, ht]
    | some x =>
      by_cases hn : n = 0
      · simp [hn, eq_comm, ht]
      · by_cases hr : a + n ≤ 4294967296 <;> simp [hn, hr, eq_comm, ht]

/-! ## Outcomes -/

theorem toOutcome_next {o : Except Fault State} {t : State} : toOutcome o = .next t ↔ o = .ok t := by
  cases o <;> simp [toOutcome]

/-- No meaning refuses. -/
theorem toOutcome_not_refused (o : Except Fault State) (r : Refusal) : toOutcome o ≠ .refused r := by
  cases o <;> simp [toOutcome]

theorem exceptBind_ok {ε α β : Type} {x : Except ε α} {f : α → Except ε β} {b : β} :
    x.bind f = .ok b ↔ ∃ a, x = .ok a ∧ f a = .ok b := by
  cases x <;> simp [Except.bind]

/-- AFTER_DRAIN changes only the two phases. -/
theorem afterDrain_ok {s t : State} (h : afterDrain s = .ok t) :
    ∃ g, s.params.configs[s.curCfg.toNat]? = some g ∧
      t = { s with fphase := if g.transform.isSome then .crDecode else .crResult, pphase := .idle } := by
  unfold afterDrain at h
  split at h
  · simp at h
  · injection h with h
    exact ⟨_, by assumption, h.symm⟩

/-- AFTER_PAYLOAD starts the drain of the bytes that did not fit, or does what AFTER_DRAIN does. -/
theorem afterPayload_ok {s t : State} (h : afterPayload s = .ok t) :
    (s.recvLen < s.pktLen ∧
        t = startRx s.pCh .null (s.pktLen - s.recvLen) .sum { s with fphase := .crDrain }) ∨
      (¬s.recvLen < s.pktLen ∧ afterDrain s = .ok t) := by
  unfold afterPayload at h
  split at h
  · injection h with h
    exact .inl ⟨by assumption, h.symm⟩
  · exact .inr ⟨by assumption, h⟩

/-- The end of the prefix of a CH_RX latches the two lengths, and starts the payload or does what AFTER_PAYLOAD does. -/
theorem afterPrefix_ok {b m : Word} {s t : State} (h : afterPrefix b m s = .ok t) :
    let u := { s with
      pktLen := assemble s.params.nativeOrder s.lenBuf
      recvLen := minWord (assemble s.params.nativeOrder s.lenBuf) m }
    (0#32 < u.recvLen ∧ t = startRx s.pCh (.mem b) u.recvLen .sum { u with fphase := .crPayload }) ∨
      (¬0#32 < u.recvLen ∧ afterPayload u = .ok t) := by
  unfold afterPrefix at h
  simp only at h
  split at h
  · injection h with h
    exact .inl ⟨by assumption, h.symm⟩
  · exact .inr ⟨by assumption, h⟩

/-- What the end of a transfer leaves alone, whatever it leads to. -/
structure SameButPhase (s t : State) : Prop where
  chans : t.chans = s.chans
  mem : t.mem = s.mem
  params : t.params = s.params
  descriptor : t.descriptor = s.descriptor
  res0 : t.res0 = s.res0
  res1 : t.res1 = s.res1
  pending : t.pending = s.pending
  turn : t.turn = s.turn
  draws : t.draws = s.draws
  fcause : t.fcause = s.fcause
  finfo : t.finfo = s.finfo
  lenBuf : t.lenBuf = s.lenBuf
  errSum : t.errSum = s.errSum
  pE : t.pE = s.pE
  pBrg : t.pBrg = s.pBrg
  curCfg : t.curCfg = s.curCfg
  pCh : t.pCh = s.pCh
  bstat : t.bstat = s.bstat ∨ t.bstat = .idle

theorem afterDrain_frame {s t : State} (h : afterDrain s = .ok t) : SameButPhase s t := by
  obtain ⟨g, -, rfl⟩ := afterDrain_ok h
  constructor <;> first | rfl | exact .inl rfl

theorem afterPayload_frame {s t : State} (h : afterPayload s = .ok t) : SameButPhase s t := by
  obtain ⟨-, rfl⟩ | ⟨-, h⟩ := afterPayload_ok h
  · constructor <;> first | rfl | exact .inl rfl
  · exact afterDrain_frame h

theorem afterPrefix_frame {b m : Word} {s t : State} (h : afterPrefix b m s = .ok t) : SameButPhase s t := by
  obtain ⟨-, rfl⟩ | ⟨-, h⟩ := afterPrefix_ok h
  · constructor <;> first | rfl | exact .inl rfl
  · obtain ⟨⟩ := afterPayload_frame h
    constructor <;> assumption

theorem finishTransfer_frame {w1 w2 : Word} {s t : State} (h : finishTransfer w1 w2 s = .ok t) :
    SameButPhase s t := by
  unfold finishTransfer at h
  split at h
  · cases h
    constructor <;> first | rfl | exact .inr rfl
  · unfold afterLength at h
    split at h <;> cases h <;> constructor <;> first | rfl | exact .inl rfl | exact .inr rfl
  · cases h
    constructor <;> first | rfl | exact .inr rfl
  · exact afterPrefix_frame h
  · exact afterPayload_frame h
  · exact afterDrain_frame h
  all_goals cases h

theorem advance_frame {p : PPhase} {w1 w2 : Word} {s t : State} (h : advance p w1 w2 s = .ok t) :
    SameButPhase s t := by
  unfold advance at h
  simp only at h
  split at h
  · obtain ⟨⟩ := finishTransfer_frame h
    constructor <;> assumption
  · cases h
    constructor <;> first | rfl | exact .inl rfl

end Sys2Proof.Machine
end

