-- ==== Sys2Proof/Laws/PerInstr.lean ====
section
/-! SUPPORT. A law of every operation as syntax, one lemma per constructor: the fields of its descriptor's first word. -/

namespace Sys2Proof

/-- The target field of W0 as it is packed. -/
theorem tgtField_packW0 (tgt : Nat) (op : Opcode) : tgtField (packW0 tgt op) = BitVec.ofNat 8 tgt := by
  apply BitVec.eq_of_getLsbD_eq
  intro i hi
  simp only [tgtField, packW0, BitVec.getLsbD_extractLsb', BitVec.getLsbD_append]
  simp [hi]

/-- The reserved field of W0 as it is packed. -/
theorem rsvField_packW0 (tgt : Nat) (op : Opcode) : rsvField (packW0 tgt op) = 0#20 := by
  apply BitVec.eq_of_getLsbD_eq
  intro i hi
  have h : ¬12 + i < 4 := by omega
  have h' : ¬12 + i - 4 < 8 := by omega
  simp only [rsvField, packW0, BitVec.getLsbD_extractLsb', BitVec.getLsbD_append]
  simp [h, h']

namespace Laws.Encoding

/-- In the descriptor of a well-formed operation TGT is the operation's target and RSV is 0 (R121). -/
def Statement (i : Instr) : Prop :=
  i.wf = true → (tgtField (encode i).w0).toNat = i.target ∧ rsvField (encode i).w0 = 0#20

/-- A target that fits TGT comes back from it. -/
theorem of_packed {i : Instr} {op : Opcode} (h : (encode i).w0 = packW0 i.target op) : Statement i := by
  intro hw
  rw [h, tgtField_packW0, rsvField_packW0]
  have : i.target < 256 := by simpa [Instr.wf] using hw
  simp [Nat.mod_eq_of_lt this]

theorem portInit (ch : Nat) (baud : Word) : Statement (.portInit ch baud) := of_packed (op := .portInit) rfl

theorem portTx (ch : Nat) (data len : Word) : Statement (.portTx ch data len) := of_packed (op := .portTx) rfl

theorem portRx (ch : Nat) (buf len err : Word) : Statement (.portRx ch buf len err) := of_packed (op := .portRx) rfl

theorem chInit (cfg : Nat) (baud : Word) : Statement (.chInit cfg baud) := of_packed (op := .chInit) rfl

theorem chTx (cfg : Nat) (pkt len : Word) : Statement (.chTx cfg pkt len) := of_packed (op := .chTx) rfl

theorem chRx (cfg : Nat) (buf blen : Word) : Statement (.chRx cfg buf blen) := of_packed (op := .chRx) rfl

end Laws.Encoding

end Sys2Proof
end

