-- ==== Sys2Proof/Tests/Slice0.lean ====
section
/-! SUPPORT. The model's own tests: what WellFormed refuses, one word of each operation decoded, small single steps whose
expected results stand in spec/95_test_vectors.md, and for each obligation that has hypotheses a named state that meets
them, each clause at a boundary of its range. -/

namespace Sys2Proof.Machine.Slice0

/-! ## Helpers -/

/-- A READY channel at 9600 baud, with empty FIFOs: S1 of spec/95_test_vectors.md section 0. -/
def chan : Channel := { Channel.reset with chst := .ready, on := true, txen := true, rxen := true, div := 520#16 }

/-- The machine with channels as given, and the bytes 41 42 at 0x1000. -/
def withChans (a b : Channel) : State := { State.reset with chans := [a, b], mem := [(0x1000, 0x41#8), (0x1001, 0x42#8)] }

/-- S1(1, 9600), S1(2, 9600). -/
def s1 : State := withChans chan chan

/-- A machine about to run step 1 of an operation, with the moves given listed. -/
def start (i : Instr) (moves : List Move) (s : State) : State := { latch (encode i) s with pending := moves }

/-- A machine inside an operation. -/
def inside (i : Instr) (f : FPhase) (p : PPhase) (s : State) : State :=
  { latch (encode i) s with fphase := f, pphase := p, pending := [.sequencer] }

/-- What an outcome's next state satisfies. -/
def gives (o : Host.Outcome State Fault Refusal) (p : State → Bool) : Bool :=
  match o with
  | .next t => p t
  | .fault _ => false
  | .refused _ => false

/-- The invariant, as a test. -/
def inv (s : State) : Bool := decide (Inv s)

/-- The state is FAULTED with a cause and a recorded value. -/
def faulted (c : Cause) (w : Word) (t : State) : Bool := decide (t.bstat = .faulted ∧ t.fcause = some c ∧ t.finfo = w)

/-! ## WellFormed (R134): a target that does not fit TGT is refused, and the largest that does is not -/

theorem test_wf_refuses_portInit : (Instr.portInit 256 9600#32).wf = false := by decide
theorem test_wf_refuses_portTx : (Instr.portTx 300 0x1000#32 1#32).wf = false := by decide
theorem test_wf_refuses_portRx : (Instr.portRx 256 0#32 1#32 0#32).wf = false := by decide
theorem test_wf_refuses_chInit : (Instr.chInit 256 9600#32).wf = false := by decide
theorem test_wf_refuses_chTx : (Instr.chTx 4096 0x1000#32 1#32).wf = false := by decide
theorem test_wf_refuses_chRx : (Instr.chRx 256 0x2000#32 1#32).wf = false := by decide
theorem test_wf_accepts_largest : (Instr.chRx 255 0xFFFFFFFF#32 0xFFFFFFFF#32).wf = true := by decide

/-! ## Decoding: W0 bit by bit as {RSV, TGT, OP} (R121, R122), operands by R123 to R128 -/

theorem test_decode_portInit :
    decode ⟨0b00000000000000000000_00000001_0001#32, 0x2580#32, 0#32, 0#32⟩ = .ok (.portInit 1 9600#32) := by decide
theorem test_decode_portTx :
    decode ⟨0b00000000000000000000_11111111_0010#32, 0x1000#32, 20#32, 0#32⟩ = .ok (.portTx 255 0x1000#32 20#32) := by
  decide
theorem test_decode_portRx :
    decode ⟨0b00000000000000000000_00000010_0011#32, 0#32, 4#32, 0x3000#32⟩ = .ok (.portRx 2 0#32 4#32 0x3000#32) := by
  decide
theorem test_decode_chInit :
    decode ⟨0b00000000000000000000_00000000_1001#32, 0x1C200#32, 0#32, 0#32⟩ = .ok (.chInit 0 115200#32) := by decide
theorem test_decode_chTx :
    decode ⟨0b00000000000000000000_00000001_1010#32, 0x1000#32, 2#32, 0#32⟩ = .ok (.chTx 1 0x1000#32 2#32) := by decide
theorem test_decode_chRx :
    decode ⟨0b00000000000000000000_10000000_1011#32, 0x2000#32, 100#32, 0#32⟩ = .ok (.chRx 128 0x2000#32 100#32) := by
  decide

/-- V-D2. -/
theorem test_decode_illegal : decode ⟨0x00000014#32, 0#32, 0#32, 0#32⟩ = .error (.illegalOp 0x14#32) := by decide
/-- V-D6: RSV is checked before the operation's own checks. -/
theorem test_decode_reserved : decode ⟨0x0000FFF1#32, 0x2580#32, 0#32, 0#32⟩ = .error (.reservedField 0xFFF1#32) := by
  decide
/-- V-D9: W2 is checked before W3. -/
theorem test_decode_unused_order : decode ⟨0x00000011#32, 0x2580#32, 7#32, 5#32⟩ = .error (.reservedField 7#32) := by
  decide

/-- A table row's word has W0 in its low 32 bits, and operand words of zeros where it gives them no bits. -/
theorem test_decodeTableWord : decodeTableWord 32 0x00000012 = some (.portTx 1 0#32 0#32) := by decide
/-- W1 counts on from bit 32. -/
theorem test_decodeTableWord_wide :
    decodeTableWord 128 0x00000000000000000000258000000011 = some (.portInit 1 9600#32) := by decide
/-- The word placed by withFetchWord is what the very next step runs: `port.init 0, 0` faults with BAD_CHANNEL. -/
theorem test_withFetchWord : gives (step (State.reset.withFetchWord 32 0x00000001)) (faulted .badChannel 0#32) := by decide

/-! ## The assembler (R134, R135) -/

theorem test_asm_comment :
    assembleText "  ch.rx 2, 0x2000, 2 ; reads\n; nothing\n\nport.drain 2, 3".toList =
      some [⟨0x2B#32, 0x2000#32, 2#32, 0#32⟩, ⟨0x23#32, 0#32, 3#32, 0#32⟩] := by decide
theorem test_asm_rejects_target : assembleText "port.tx 256, 0x1000, 1".toList = none := by decide
theorem test_asm_rejects_operand : assembleText "port.tx 1, 0x100000000, 1".toList = none := by decide

/-! ## One step of each operation -/

/-- V-PI1: at 80 MHz and 9600 baud the divisor is 520. -/
theorem test_portInit_divisor :
    gives (exec (.portInit 1 9600#32) (start (.portInit 1 9600#32) [] .reset))
      (fun t => decide (t.pBrg = 520#16 ∧ t.pCh = 1#8 ∧ t.pphase = .pi1)) := by decide
/-- V-PI3: `port.init 1, 76` is out of range and records the baud rate. -/
theorem test_portInit_range :
    gives (exec (.portInit 1 76#32) (start (.portInit 1 76#32) [] .reset)) (faulted .baudRange 0x4C#32) := by decide

/-- V-PT1 step 8: the last write ends the operation with the byte still in the transmit buffer. -/
theorem test_portTx_last_write :
    gives (exec (.portTx 1 0x1000#32 2#32)
        { inside (.portTx 1 0x1000#32 2#32) .none .ptWrite s1 with
          pCh := 1#8, pSrc := .mem 0x1000#32, pLen := 2#32, pIdx := 1#32, pD := 0x42#8 })
      (fun t => decide (t.bstat = .idle ∧ (t.chan? 1).map Channel.txbuf = some [0x42#8])) := by decide
/-- V-PT5: the range that ends past admitted memory. -/
theorem test_portTx_range :
    gives (exec (.portTx 1 0x7FFF#32 2#32) (start (.portTx 1 0x7FFF#32 2#32) [] s1)) (faulted .memRange 0x7FFF#32) := by
  decide

/-- V-PR3: the poll of a byte with both errors latches 0x30D, and the byte's summary bits are 3. -/
theorem test_portRx_poll :
    gives (exec (.portRx 2 0x2000#32 1#32 0x3000#32)
        { inside (.portRx 2 0x2000#32 1#32 0x3000#32) .none .prPoll
            (withChans chan { chan with rxfifo := [⟨0x5A#8, true, true⟩] }) with
          pCh := 2#8, pSrc := .mem 0x2000#32, pLen := 1#32, pErr := .mem 0x3000#32 })
      (fun t => decide (t.pS = 0x30D#32 ∧ t.pE = 3#8 ∧ t.pphase = .prMrd)) := by decide
/-- V-PR15: the error byte 0x11 with FRAMING merged is 0x13. -/
theorem test_portRx_merge :
    gives (exec (.portRx 2 0x2000#32 2#32 0x2000#32)
        { inside (.portRx 2 0x2000#32 2#32 0x2000#32) .none .prMwr s1 with
          pCh := 2#8, pSrc := .mem 0x2000#32, pLen := 2#32, pIdx := 1#32, pErr := .mem 0x2000#32, pD := 0x11#8, pE := 2#8 })
      (fun t => decide (Memory.read t.mem 0x2000 = 0x13#8 ∧ t.pphase = .prRead)) := by decide

/-- V-CI2: configuration 2 is channel 2, at 115200 baud with divisor 42. -/
theorem test_chInit_channel :
    gives (exec (.chInit 2 115200#32) (start (.chInit 2 115200#32) [] .reset))
      (fun t => decide (t.pCh = 2#8 ∧ t.pBrg = 42#16)) := by decide
/-- V-CI3. -/
theorem test_chInit_config :
    gives (exec (.chInit 3 9600#32) (start (.chInit 3 9600#32) [] .reset)) (faulted .badConfig 3#32) := by decide

/-- W2: the encode of "AB" in place. -/
theorem test_chTx_encode :
    gives (exec (.chTx 1 0x1000#32 2#32) { inside (.chTx 1 0x1000#32 2#32) .ctEncode .idle s1 with curCfg := 1#8 })
      (fun t => decide (t.mem = [(0x1000, 0x5B#8), (0x1001, 0x5C#8)] ∧ t.fphase = .ctLen ∧ t.pphase = .ptPoll)) := by decide
/-- V-CT9: a null packet faults before the transform. -/
theorem test_chTx_null :
    gives (exec (.chTx 1 0#32 2#32) (start (.chTx 1 0#32 2#32) [] s1))
      (fun t => faulted .nullPtr 2#32 t && decide (t.mem = s1.mem)) := by decide

/-- V-CR2: the last prefix byte of 05 00 00 00 into a buffer of 2. -/
theorem test_chRx_prefix :
    gives (exec (.chRx 0 0x2000#32 2#32)
        { inside (.chRx 0 0x2000#32 2#32) .crLen .prRead (withChans { chan with rxfifo := [⟨0#8, false, false⟩] } chan) with
          pCh := 1#8, pSrc := .len, pLen := 4#32, pIdx := 3#32, pErr := .sum, lenBuf := ⟨5#8, 0#8, 0#8, 0xFF#8⟩ })
      (fun t => decide (t.pktLen = 5#32 ∧ t.recvLen = 2#32 ∧ t.fphase = .crPayload ∧ t.pSrc = .mem 0x2000#32)) := by decide
/-- V-CR7: the result step. -/
theorem test_chRx_result :
    gives (exec (.chRx 0 0x2000#32 1#32)
        { inside (.chRx 0 0x2000#32 1#32) .crResult .idle s1 with pktLen := 3#32, recvLen := 1#32, errSum := 3#8 })
      (fun t => decide (t.res0 = 3#32 ∧ t.res1 = 3#32 ∧ t.bstat = .idle)) := by decide

/-! ## Registers, flags and byte order -/

/-- The STATUS read values of section 0: TXBF alone, and an overrun over a clean head. -/
theorem test_status_reads :
    ({ chan with txbuf := [0x55#8] } : Channel).statusWord 1 = 0x310#32 ∧
      ({ chan with oerr := true, rxfifo := [⟨1#8, false, false⟩] } : Channel).statusWord 1 = 0x303#32 := by decide
/-- P5: a full FIFO sets OERR and loses the byte. -/
theorem test_overrun :
    let e : RxEntry := ⟨1#8, false, false⟩
    (({ chan with rxfifo := [e, e, e, e] } : Channel).lineRx 4 ⟨5#8, false, false⟩) =
      { chan with rxfifo := [e, e, e, e], oerr := true } := by decide
/-- The serialisation vectors of section 2.7. -/
theorem test_serialise :
    serialise .little 0x01020304#32 = ⟨4#8, 3#8, 2#8, 1#8⟩ ∧ serialise .big 0x01020304#32 = ⟨1#8, 2#8, 3#8, 4#8⟩ ∧
      assemble .little ⟨4#8, 3#8, 2#8, 1#8⟩ = 0x01020304#32 := by decide
/-- V-CT5: ADD26 wraps modulo 256. -/
theorem test_add26 :
    applyTransform .add26 .encode [0xF0#8, 0xFF#8, 0x00#8, 0xE5#8, 0xE6#8] = [0x0A#8, 0x19#8, 0x1A#8, 0xFF#8, 0x00#8] := by
  decide
/-- The host-interface and peripheral register numbers of R39 and R51, and the encoding of CHST (R46). -/
theorem test_numbers :
    [HostReg.d0, .d1, .d2, .d3, .res0, .res1, .bstat, .fcause, .finfo].map HostReg.number = List.range 9 ∧
      [Reg.mode, .status, .txreg, .rxreg, .brg].map Reg.number = List.range 5 ∧ Chst.code .ready = 1#1 := by decide

/-! ## For each obligation with hypotheses, a state and operands that meet them -/

/-- DecodeEncodeRoundTrip, at both ends of TGT. -/
theorem witness_DecodeEncodeRoundTrip :
    (Instr.portInit 0 0#32).wf = true ∧ (Instr.portRx 255 0xFFFFFFFF#32 0#32 0xFFFFFFFF#32).wf = true := by decide

theorem witness_EncodeDecodeRoundTrip :
    decode ⟨0xFFB#32, 0x2000#32, 0xFFFFFFFF#32, 0#32⟩ = .ok (.chRx 255 0x2000#32 0xFFFFFFFF#32) := by decide

/-- A word's OP is in a list and its RSV is as said, for the clauses below. -/
def fieldsAre (w : Word) (ops : List Nat) (rsvZero : Bool) : Bool :=
  decide (w.toNat % 16 ∈ ops) && (rsvZero == decide (w.toNat / 4096 = 0))

/-- DecodeReportsFirstFailingCheck and IllegalDescriptorsFault, one descriptor a clause: the illegal operation codes next
to the legal ones, the lowest and the highest bit of RSV, one bit of each unused word, and one legal descriptor of each. -/
theorem witness_decode_clauses :
    ([0x0#32, 0x4#32, 0x8#32, 0xC#32, 0xF#32].all fun w => !fieldsAre w [1, 2, 3, 9, 10, 11] true) = true ∧
    ([0x1001#32, 0x80000003#32].all fun w => fieldsAre w [1, 2, 3, 9, 10, 11] false) = true ∧
    ([0x1#32, 0x9#32, 0xFF1#32].all fun w => fieldsAre w [1, 9] true) = true ∧
    ([0x2#32, 0xA#32, 0xB#32, 0xFFB#32].all fun w => fieldsAre w [2, 10, 11] true) = true ∧
    fieldsAre 0x3#32 [3] true = true ∧ (1#32 ≠ 0#32 ∧ 0x80000000#32 ≠ 0#32) := by decide

theorem witness_IllegalDescriptorsFault :
    let s := fun (d : Descriptor) => { latch d s1 with pending := [.sequencer] }
    ([⟨0xF#32, 0#32, 0#32, 0#32⟩, ⟨0x1001#32, 0#32, 0#32, 0#32⟩, ⟨0x1#32, 0#32, 1#32, 0#32⟩, ⟨0x9#32, 0#32, 0#32, 1#32⟩,
      ⟨0xB#32, 0#32, 0#32, 0x80000000#32⟩] : List Descriptor).all (fun d =>
        decide ((s d).pending = [.sequencer] ∧ (s d).bstat = .busy ∧ (s d).atStart = true ∧ (s d).descriptor = d)) =
      true := by decide

theorem witness_StepRunsDecodedOperation :
    let i : Instr := .portTx 1 0x1000#32 2#32
    let s := start i [.sequencer] s1
    (s.pending = [.sequencer] ∧ s.bstat = .busy ∧ decode s.descriptor = .ok i) ∧
      ((start i [] s1).pending = [] ∧ (start i [] s1).turn = 0 ∧ decode (start i [] s1).descriptor = .ok i) ∧
      ({ s1 with pending := [.sequencer] }.bstat ≠ .busy) := by decide

/-- IssueProtocol, in the three states of the block. -/
theorem witness_IssueProtocol :
    let s := { s1 with pending := [.issue 0x11#32 0x2580#32 0#32 0#32] }
    s.pending = [.issue 0x11#32 0x2580#32 0#32 0#32] ∧ s.bstat = .idle ∧ { s with bstat := .busy }.bstat = .busy ∧
      (raiseFault .badChannel 0#32 s).bstat = .faulted := by decide

theorem witness_FaultedUntilReset :
    let s := { raiseFault .notInit 2#32 s1 with pending := [.issue 0x11#32 0#32 0#32 0#32, .lineTx 1, .sequencer] }
    s.bstat = .faulted ∧ (∀ m ∈ s.pending, ∀ draws, m ≠ .reset draws) ∧ gives (steps 5 s) (fun _ => true) = true := by
  refine ⟨by decide, ?_, by decide⟩
  intro m hm draws
  simp only [List.mem_cons, List.not_mem_nil, or_false] at hm
  rcases hm with rfl | rfl | rfl <;> exact fun h => nomatch h

theorem witness_FaultsArePrecise :
    let s := start (.portTx 3 0x1000#32 1#32) [.sequencer] s1
    let u := { inside (.portInit 1 9600#32) .none .pi1 s1 with pCh := 1#8, pBrg := 520#16 }
    (s.bstat = .busy ∧ s.atStart = true ∧ gives (sequencerTurn s) (fun t => decide (t.bstat = .faulted)) = true) ∧
      (inv u = true ∧ u.bstat = .busy ∧ u.atStart = false ∧ gives (sequencerTurn u) (fun _ => true) = true) := by decide

theorem witness_BlockResetValues :
    { s1 with pending := [.reset []] }.pending = [.reset []] := by decide

/-- ResetDrawsPeripherals: a draw that fills both FIFOs of the last channel. -/
theorem witness_ResetDrawsPeripherals :
    let e : RxEntry := ⟨0xAA#8, true, false⟩
    let d : Draw := ⟨true, true, true, false, 0xFFFF#16, [e, e, e, e], [0x55#8]⟩
    let s := { s1 with pending := [.reset [Draw.zero, d]] }
    s.pending = [.reset [Draw.zero, d]] ∧ 1 < s.params.nChannels ∧ [Draw.zero, d][1]? = some d ∧
      d.rxfifo.length ≤ s.params.rxDepth ∧ d.txbuf.length ≤ s.params.txDepth := by decide

theorem witness_HostReadsRegisters : { s1 with pending := [.hostRead .bstat] }.pending = [.hostRead .bstat] := by decide

/-- HostKeepsOffBusyBuffers: a block that is not BUSY, a descriptor that does not decode, the first and the last byte of a
buffer and the bytes just outside it, an error byte, a discarding PORT_RX, and the operations that name no byte. -/
theorem witness_HostKeepsOffBusyBuffers :
    let bad := latch ⟨0x1012#32, 0x1000#32, 2#32, 0#32⟩ s1
    let within := fun (a x n : Word) => decide (x.toNat ≤ a.toNat ∧ a.toNat < x.toNat + n.toNat)
    (s1.bstat ≠ .busy) ∧
    (bad.bstat = .busy ∧ decode bad.descriptor = .error (.reservedField 0x1012#32)) ∧
    [Instr.portInit 1 9600#32, .portTx 1 0x1000#32 2#32, .portRx 1 0x2000#32 1#32 0x3000#32, .portRx 1 0#32 1#32 0#32,
      .chInit 0 9600#32, .chTx 0 0x1000#32 2#32, .chRx 0 0x2000#32 1#32].all (fun i =>
        decide ((start i [] s1).bstat = .busy ∧ decode (start i [] s1).descriptor = .ok i)) = true ∧
    within 0x1000#32 0x1000#32 2#32 = true ∧ within 0x1001#32 0x1000#32 2#32 = true ∧
    within 0xFFF#32 0x1000#32 2#32 = false ∧ within 0x1002#32 0x1000#32 2#32 = false ∧
    within 0x3000#32 0x2000#32 1#32 = false ∧ within 0x2000#32 0x2000#32 1#32 = true := by decide

/-- RegisterReads, ModeWrite, StatusAndDivisorWrites and DataRegisters: a channel that exists, values with bit 0 and bit 1
set and clear, a buffer with room, a full one, a peripheral that is off, and a FIFO with and without an entry. -/
theorem witness_registers :
    let e : RxEntry := ⟨0x5A#8, true, true⟩
    let s := withChans { chan with rxfifo := [e], txbuf := [0x55#8] } { chan with on := false }
    s.chan? 1 = some { chan with rxfifo := [e], txbuf := [0x55#8] } ∧ s.chan? 2 = some { chan with on := false } ∧
      s1.chan? 1 = some chan ∧ chan.on = true ∧ chan.rxfifo = [] ∧ chan.txbuf.length < s.params.txDepth ∧
      ¬([0x55#8].length < s.params.txDepth) ∧
      (1#32).getLsbD 0 = true ∧ (0xFFFFFFFE#32).getLsbD 0 = false ∧ (2#32).getLsbD 1 = true ∧
      (0xFFFFFFFD#32).getLsbD 1 = false := by decide

/-- LineTransmitStep: an enabled channel, and one that has nothing to send. -/
theorem witness_LineTransmitStep :
    let s := { withChans { chan with txbuf := [0x55#8] } chan with pending := [.lineTx 1] }
    s.pending = [.lineTx 1] ∧ s.chan? 1 = some { chan with txbuf := [0x55#8] } ∧ s.chan? 2 = some chan ∧
      chan.on = true ∧ chan.txen = true ∧ chan.txbuf = [] := by decide

/-- LineReceiveStep: the last free place of a FIFO, a full FIFO, and a set OERR. -/
theorem witness_LineReceiveStep :
    let e : RxEntry := ⟨1#8, false, false⟩
    let s := fun (ch : Channel) => { withChans ch chan with pending := [.lineRx 1 7#8 true false] }
    (s { chan with rxfifo := [e, e, e] }).chan? 1 = some { chan with rxfifo := [e, e, e] } ∧
      [e, e, e].length < s1.params.rxDepth ∧ ¬([e, e, e, e].length < s1.params.rxDepth) ∧
      (s { chan with rxfifo := [e, e, e, e] }).chan? 1 = some { chan with rxfifo := [e, e, e, e] } ∧
      ¬({ chan with oerr := true }.on = true ∧ { chan with oerr := true }.rxen = true ∧
        { chan with oerr := true }.oerr = false) := by decide

/-- AdmittedRanges: one admitted byte at each end of admitted memory; and legal states whose next step accesses memory, at
the last byte of a buffer, at an error byte and over the range of a transform. -/
theorem witness_AdmittedRanges :
    let t := { inside (.portTx 1 0x1000#32 2#32) .none .ptFetch s1 with
      pCh := 1#8, pSrc := .mem 0x1000#32, pLen := 2#32, pIdx := 1#32 }
    let i : Instr := .portRx 1 0x2000#32 1#32 0x3000#32
    let r := { inside i .none .prMwr (withChans { chan with rxfifo := [⟨0x5A#8, true, false⟩] } chan) with
      pCh := 1#8, pSrc := .mem 0x2000#32, pLen := 1#32, pErr := .mem 0x3000#32, pE := 1#8 }
    let u := { inside (.chTx 1 0x1000#32 2#32) .ctEncode .idle s1 with curCfg := 1#8, lenBuf := ⟨2#8, 0#8, 0#8, 0#8⟩ }
    (admitted .test 0x1000 1 = true ∧ admitted .test 0x7FFF 1 = true ∧ admitted .test 0x7FFF 2 = false) ∧
    (inv t = true ∧ t.bstat = .busy ∧ decode t.descriptor = .ok (.portTx 1 0x1000#32 2#32) ∧
      fetchedRanges (.portTx 1 0x1000#32 2#32) t = [(0x1001, 1)]) ∧
    (inv r = true ∧ r.bstat = .busy ∧ decode r.descriptor = .ok i ∧ storedRanges i r = [(0x3000, 1)]) ∧
    (inv u = true ∧ u.bstat = .busy ∧ decode u.descriptor = .ok (.chTx 1 0x1000#32 2#32) ∧
      storedRanges (.chTx 1 0x1000#32 2#32) u = [(0x1000, 2)]) := by decide

/-- TransformInPlace: a range, the empty one, and one that ends at the top of the address space. -/
theorem witness_TransformInPlace :
    let s := { s1 with curCfg := 1#8 }
    Memory.wf s.mem = true ∧ s.params.configs[s.curCfg.toNat]? = some ⟨1#8, some .add26⟩ ∧ 0x1000 + 0 ≤ 2 ^ 32 ∧
      0xFFFFFFFF + 1 ≤ 2 ^ 32 := by decide

/-- LengthPrefixByteOrder ranges over four positions. -/
theorem witness_LengthPrefixByteOrder : (0 < 4 ∧ 3 < 4) ∧ (serialise .big 0x01020304#32).get? 3 = some 4#8 := by decide

/-- BaudDivisorRange: the rates at the two ends of what 80 MHz accepts, and the ones just outside (section 2.2). -/
theorem witness_BaudDivisorRange :
    (8 ≤ Params.test.pclkHz / (10000000#32).toNat ∧ Params.test.pclkHz / (77#32).toNat ≤ 1048583) ∧
      ¬(8 ≤ Params.test.pclkHz / (10000001#32).toNat) ∧ ¬(Params.test.pclkHz / (76#32).toNat ≤ 1048583) ∧
      Params.test.pclkHz = 80000000 := by decide

/-- InitOperationsAccept, at both ends of the channels and of the divisor. -/
theorem witness_InitOperationsAccept :
    (start (.portInit 2 10000000#32) [] s1).atStart = true ∧ s1.params.nChannels = 2 ∧
      1 ≤ (s1.params.pclkHz / (10000000#32).toNat + 8) / 16 ∧ (s1.params.pclkHz / (77#32).toNat + 8) / 16 ≤ 65536 ∧
      s1.params.configs[2]? = some ⟨2#8, none⟩ ∧ (2#8).toNat = 2 := by decide

theorem witness_InitOperationsFault :
    s1.atStart = true ∧ s1.params.configs.length ≤ 3 ∧ s1.params.nChannels < 3 ∧
      s1.params.configs[0]? = some ⟨1#8, none⟩ ∧ (1#8).toNat = 1 ∧
      (s1.params.pclkHz / (10000001#32).toNat + 8) / 16 = 0 ∧ 65536 < (s1.params.pclkHz / (76#32).toNat + 8) / 16 := by decide

/-- A PORT_INIT of channel 1 in a phase, on the channel as that phase finds it. -/
def initAt (i : Instr) (p : PPhase) (ch : Channel) : State :=
  { inside i .none p (withChans ch chan) with pCh := 1#8, pBrg := 520#16 }

/-- InitSequenceSteps, in each of its five phases. -/
theorem witness_InitSequenceSteps :
    [PPhase.pi1, .pi2, .pi3, .pi4, .pi5].all (fun p =>
      let s := initAt (.portInit 1 9600#32) p chan
      decide (s.fphase = .none ∧ s.pphase = p ∧ s.chan? s.pCh.toNat = some chan)) = true := by decide

/-- InitCompletionState, for a PORT_INIT and for a CH_INIT. -/
theorem witness_InitCompletionState :
    let ch : Channel := { Channel.reset with on := true, div := 520#16 }
    [Instr.portInit 1 9600#32, .chInit 0 9600#32].all (fun i =>
      let s := initAt i .pi5 ch
      decide (inv s = true ∧ s.bstat = .busy ∧ s.pphase = .pi5 ∧ decode s.descriptor = .ok i)) = true ∧
      State.reset.params.configs[0]? = some ⟨1#8, none⟩ := by decide

theorem witness_InitOperationsRun :
    [Instr.portInit 1 9600#32, .chInit 0 9600#32].all (fun i =>
      let s := start i (turns 6) .reset
      decide (s.bstat = .busy ∧ s.atStart = true ∧ decode s.descriptor = .ok i ∧ 1 ≤ s.params.nChannels ∧
        s.chan? 1 = some Channel.reset ∧ s.params.configs[0]? = some ⟨1#8, none⟩ ∧
        1 ≤ (s.params.pclkHz / (9600#32).toNat + 8) / 16 ∧ (s.params.pclkHz / (9600#32).toNat + 8) / 16 ≤ 65536 ∧
        s.pending = turns 6 ++ [])) = true := by decide

/-- PortTxAccepts and ChTxAccepts, PortRxAccepts and ChRxAccepts: the last admitted byte, and an empty buffer. -/
theorem witness_transfers_accept :
    s1.atStart = true ∧ s1.params.nChannels = 2 ∧ s1.isReady 1 = true ∧ s1.isReady 2 = true ∧
      admitted s1.params (0x7FFF#32).toNat (1#32).toNat = true ∧ admitted s1.params (0x9000#32).toNat (0#32).toNat = true ∧
      s1.params.configs[1]? = some ⟨1#8, some .add26⟩ ∧ s1.params.configs[2]? = some ⟨2#8, none⟩ := by decide

/-- PortTxByteSteps, clause by clause. -/
theorem witness_PortTxByteSteps :
    let s := fun (p : PPhase) (ch : Channel) =>
      { inside (.portTx 1 0x1000#32 2#32) .none p (withChans ch chan) with
        pCh := 1#8, pSrc := .mem 0x1000#32, pLen := 2#32, pIdx := 1#32 }
    (s .ptPoll { chan with txbuf := [1#8] }).chan? 1 = some { chan with txbuf := [1#8] } ∧
      [1#8].length = s1.params.txDepth ∧ chan.txbuf.length ≠ s1.params.txDepth ∧
      (s .ptFetch chan).chan? (s .ptFetch chan).pCh.toNat = some chan ∧
      (0x1000#32).toNat + (s .ptFetch chan).pIdx.toNat < 2 ^ 32 ∧ chan.on = true ∧
      chan.txbuf.length < (s .ptWrite chan).params.txDepth ∧ (s .ptWrite chan).pIdx + 1#32 = (s .ptWrite chan).pLen := by
  decide

/-- PortTxRun, for two bytes and for none. -/
theorem witness_PortTxRun :
    [(0x1000#32, 2#32), (0#32, 0#32)].all (fun x =>
      let s := start (.portTx 1 x.1 x.2) (turns 1 ++ promptBytes 1 3 x.2.toNat ++ []) s1
      decide (inv s = true ∧ s.bstat = .busy ∧ s.atStart = true ∧ decode s.descriptor = .ok (.portTx 1 x.1 x.2) ∧
        s.chan? 1 = some chan ∧ chan.chst = .ready ∧ chan.txbuf = [] ∧ (x.2 ≠ 0#32 → x.1 ≠ 0#32) ∧
        admitted s.params x.1.toNat x.2.toNat = true ∧
        s.pending = turns 1 ++ promptBytes 1 3 x.2.toNat ++ [])) = true := by decide

/-- PortRxByteSteps: each phase with its sink, its error target and its FIFO. -/
theorem witness_PortRxByteSteps :
    let e : RxEntry := ⟨0x5A#8, true, false⟩
    let s := fun (p : PPhase) (ch : Channel) (b : Source) =>
      { inside (.portRx 1 0x2000#32 1#32 0x3000#32) .none p (withChans ch chan) with
        pCh := 1#8, pSrc := b, pLen := 1#32, pErr := .mem 0x3000#32 }
    [PPhase.prPoll, .prMrd, .prMwr, .prRead, .prStore].all (fun p =>
      [Source.mem 0x2000#32, .null].all fun b =>
        let t : State := s p { chan with rxfifo := [e] } b
        decide (t.fphase = .none ∧ t.pphase = p ∧ t.pErr ≠ .sum ∧ t.pSrc ≠ .len ∧
          t.chan? t.pCh.toNat = some { chan with rxfifo := [e] } ∧ (0x2000#32).toNat + t.pIdx.toNat < 2 ^ 32)) = true ∧
      e.bits ≠ 0#8 ∧ (s .prPoll chan .null).chan? 1 = some chan ∧ chan.rxfifo = [] ∧ chan.oerr = false ∧
      (s .prPoll { chan with oerr := true } .null).chan? 1 = some { chan with oerr := true } := by decide

/-- OverrunClear, for PORT_RX and for each receiving phase of CH_RX, with an empty FIFO and with data. -/
theorem witness_OverrunClear :
    [(Instr.portRx 1 0x2000#32 1#32 0#32, FPhase.none), (.chRx 0 0x2000#32 1#32, .crLen), (.chRx 0 0x2000#32 1#32, .crPayload),
      (.chRx 0 0x2000#32 1#32, .crDrain)].all (fun x =>
      [[], [(⟨1#8, false, false⟩ : RxEntry)]].all fun q =>
        let ch : Channel := { chan with oerr := true, rxfifo := q }
        let s : State := { inside x.1 x.2 .prPoll (withChans ch chan) with pCh := 1#8 }
        decide (s.fphase = x.2 ∧ s.pphase = .prPoll ∧ s.chan? s.pCh.toNat = some ch ∧ ch.oerr = true)) = true := by decide

/-- PortRxRun: a byte with an error stored and merged, a discarded byte, and no byte. -/
theorem witness_PortRxRun :
    let e : RxEntry := ⟨0x5A#8, true, false⟩
    [(0x2000#32, 0x3000#32, [e]), (0#32, 0#32, [e]), (0x9000#32, 0x1000#32, [])].all (fun x =>
      let n := BitVec.ofNat 32 x.2.2.length
      let i : Instr := .portRx 1 x.1 n x.2.1
      let s := start i (turns 1 ++ jitBytes 1 (receiveSteps x.1 x.2.1) x.2.2 ++ []) s1
      decide (inv s = true ∧ s.bstat = .busy ∧ s.atStart = true ∧ decode s.descriptor = .ok i ∧ s.chan? 1 = some chan ∧
        chan.chst = .ready ∧ chan.rxfifo = [] ∧ chan.oerr = false ∧ x.2.2.length = n.toNat ∧
        (x.1 ≠ 0#32 → admitted s.params x.1.toNat n.toNat = true) ∧
        (x.2.1 ≠ 0#32 → admitted s.params x.2.1.toNat 1 = true))) = true := by decide

/-- PortTransfersFault and FramingTransfersFault: channel 0 and 3, a channel not READY, a null pointer, a range that ends
past admitted memory, a good buffer with a bad error byte, a configuration past the table, and one whose channel does not
exist (V-CI4). -/
theorem witness_transfers_fault :
    let u := withChans Channel.reset chan
    let v := { s1 with params := { Params.test with configs := [⟨3#8, none⟩, ⟨0#8, none⟩] } }
    s1.atStart = true ∧ s1.params.nChannels < 3 ∧ u.isReady 1 = false ∧ s1.isReady 1 = true ∧
      admitted s1.params (0x7FFF#32).toNat (2#32).toNat = false ∧ admitted s1.params (0x2000#32).toNat (1#32).toNat = true ∧
      admitted s1.params (0x8000#32).toNat 1 = false ∧ s1.params.configs.length ≤ 3 ∧
      u.params.configs[0]? = some ⟨1#8, none⟩ ∧ v.params.configs[0]? = some ⟨3#8, none⟩ ∧
      v.params.configs[1]? = some ⟨0#8, none⟩ ∧ v.params.nChannels < (3#8).toNat := by decide

/-- ChTxPhases, clause by clause: the polls on a full and on a free buffer, the fetch, and the writes of a byte that is not
the last and of the last, in the prefix and in the payload. -/
theorem witness_ChTxPhases :
    let i : Instr := .chTx 1 0x1000#32 2#32
    let full : Channel := { chan with txbuf := [1#8] }
    let s := fun (f : FPhase) (p : PPhase) (src : Source) (idx len : Word) =>
      { inside i f p s1 with curCfg := 1#8, pCh := 1#8, pSrc := src, pIdx := idx, pLen := len }
    s1.params.configs[1]? = some ⟨1#8, some .add26⟩ ∧ (0x1000#32).toNat + (2#32).toNat ≤ 2 ^ 32 ∧
      (s .ctLen .ptPoll .len 3#32 4#32).chan? 1 = some chan ∧ chan.txbuf.length ≠ s1.params.txDepth ∧
      (s .ctLen .ptPoll .len 3#32 4#32).lenBuf.get? 3 = some 0#8 ∧ chan.on = true ∧
      (withChans full chan).chan? 1 = some full ∧ full.txbuf.length = s1.params.txDepth ∧
      (0x1000#32).toNat + (s .ctPayload .ptFetch (.mem 0x1000#32) 1#32 2#32).pIdx.toNat < 2 ^ 32 ∧
      (s .ctLen .ptWrite .len 0#32 4#32).pIdx + 1#32 ≠ 4#32 ∧
      (s .ctPayload .ptWrite (.mem 0x1000#32) 0#32 2#32).pIdx + 1#32 ≠ 2#32 ∧
      chan.txbuf.length < s1.params.txDepth ∧ (3#32 + 1#32 = 4#32) ∧
      (s .ctPayload .ptWrite (.mem 0x1000#32) 1#32 2#32).pIdx + 1#32 = 2#32 := by decide

/-- ChTxRun, with and without a transform, for two bytes and for none. -/
theorem witness_ChTxRun :
    [(0, 1, 0x1000#32, 2#32), (1, 2, 0x1000#32, 2#32), (1, 2, 0#32, 0#32)].all (fun x =>
      let n := x.2.2.2
      let i : Instr := .chTx x.1 x.2.2.1 n
      let s := start i (turns x.2.1 ++ promptBytes 1 2 4 ++ promptBytes 1 3 n.toNat ++ []) s1
      decide (inv s = true ∧ s.bstat = .busy ∧ s.atStart = true ∧ decode s.descriptor = .ok i ∧
        (s.params.configs[x.1]?.map ChannelConfig.channel) = some 1#8 ∧
        (s.params.configs[x.1]?.map fun g => if g.transform = none then 1 else 2) = some x.2.1 ∧
        s.chan? 1 = some chan ∧ chan.chst = .ready ∧ chan.txbuf = [] ∧
        (n = 0#32 ∨ (x.2.2.1 ≠ 0#32 ∧ admitted s.params x.2.2.1.toNat n.toNat = true)))) = true := by decide

/-- ChRxPhases: each receiving phase with its sink, between bytes and at its last byte, and the decode. -/
theorem witness_ChRxPhases :
    let z : RxEntry := ⟨0#8, true, true⟩
    let i : Instr := .chRx 1 0x2000#32 2#32
    let s := fun (f : FPhase) (p : PPhase) (src : Source) (idx len : Word) =>
      { inside i f p (withChans { chan with rxfifo := [z] } chan) with
        curCfg := 1#8, pCh := 1#8, pSrc := src, pIdx := idx, pLen := len, pErr := .sum, pktLen := 5#32, recvLen := 2#32 }
    s1.params.configs[1]? = some ⟨1#8, some .add26⟩ ∧
      ((s .crLen .prPoll .len 0#32 4#32).chan? 1 = some { chan with rxfifo := [z] } ∧
        (s .crLen .prPoll .len 0#32 4#32).pErr = .sum ∧ chan.rxfifo = [] ∧ chan.oerr = false) ∧
      ((s .crLen .prRead .len 2#32 4#32).pIdx + 1#32 ≠ 4#32 ∧
        ((s .crLen .prRead .len 2#32 4#32).lenBuf.set? 2 0#8).isSome = true) ∧
      (s .crLen .prRead .len 3#32 4#32).pIdx = 3#32 ∧
      (s .crPayload .prStore (.mem 0x2000#32) 0#32 2#32).pIdx + 1#32 ≠ 2#32 ∧
      (s .crPayload .prStore (.mem 0x2000#32) 1#32 2#32).pIdx + 1#32 = 2#32 ∧
      (0x2000#32).toNat + (1#32).toNat < 2 ^ 32 ∧
      (s .crDrain .prRead .null 0#32 3#32).pIdx + 1#32 ≠ 3#32 ∧ (s .crDrain .prRead .null 2#32 3#32).pIdx + 1#32 = 3#32 ∧
      (0x2000#32).toNat + (2#32).toNat ≤ 2 ^ 32 := by decide

/-- ChRxRun: a packet that fits with a transform, one that is truncated, one that is empty, and a buffer of none. -/
theorem witness_ChRxRun :
    let e := fun (b : Byte) => (⟨b, false, false⟩ : RxEntry)
    [(1, 2, 0x2000#32, 2#32, 1#8, [e 0x5B#8]), (0, 1, 0x2000#32, 1#32, 2#8, [e 0x41#8, e 0x42#8]),
      (1, 2, 0x2000#32, 8#32, 0#8, []), (0, 1, 0#32, 0#32, 1#8, [e 0x41#8])].all (fun x =>
      let b := x.2.2.1
      let m := x.2.2.2.1
      let hd := [e x.2.2.2.2.1, e 0#8, e 0#8, e 0#8]
      let body := x.2.2.2.2.2
      let recv := min body.length m.toNat
      let i : Instr := .chRx x.1 b m
      let s := start i (turns 1 ++ jitBytes 1 (fun _ => 2) hd ++ jitBytes 1 (fun _ => 3) (body.take recv) ++
        jitBytes 1 (fun _ => 2) (body.drop recv) ++ turns x.2.1) s1
      decide (inv s = true ∧ s.bstat = .busy ∧ s.atStart = true ∧ decode s.descriptor = .ok i ∧
        (s.params.configs[x.1]?.map ChannelConfig.channel) = some 1#8 ∧
        (s.params.configs[x.1]?.map fun g => if g.transform = none then 1 else 2) = some x.2.1 ∧
        s.chan? 1 = some chan ∧ chan.chst = .ready ∧ chan.rxfifo = [] ∧ chan.oerr = false ∧
        (m = 0#32 ∨ (b ≠ 0#32 ∧ admitted s.params b.toNat m.toNat = true)) ∧
        body.length = (assemble s.params.nativeOrder ⟨x.2.2.2.2.1, 0#8, 0#8, 0#8⟩).toNat)) = true := by decide

/-- FramedRoundTrip: "A" is sent on channel 1 and received on channel 2, with the bytes that the wire gained. -/
theorem witness_FramedRoundTrip :
    let sent := [1#8, 0#8, 0#8, 0#8, 0x41#8].map fun v => (⟨v, false, false⟩ : RxEntry)
    let s := start (.chTx 0 0x1000#32 1#32) (turns 1 ++ promptBytes 1 2 4 ++ promptBytes 1 3 1) s1
    let r := start (.chRx 2 0x2000#32 1#32)
      (turns 1 ++ jitBytes 2 (fun _ => 2) (sent.take 4) ++ jitBytes 2 (fun _ => 3) (sent.drop 4) ++ turns 1) s1
    (inv s = true ∧ s.bstat = .busy ∧ s.atStart = true ∧ decode s.descriptor = .ok (.chTx 0 0x1000#32 1#32) ∧
      s.params.configs[0]? = some ⟨1#8, none⟩ ∧ s.chan? 1 = some chan ∧ chan.chst = .ready ∧ chan.txbuf = [] ∧
      admitted s.params (0x1000#32).toNat (1#32).toNat = true) ∧
    (inv r = true ∧ r.bstat = .busy ∧ r.atStart = true ∧ decode r.descriptor = .ok (.chRx 2 0x2000#32 1#32) ∧
      r.params.configs[2]? = some ⟨2#8, none⟩ ∧ r.chan? 2 = some chan ∧ chan.rxfifo = [] ∧ chan.oerr = false ∧
      admitted r.params (0x2000#32).toNat (1#32).toNat = true ∧ r.params.nativeOrder = s.params.nativeOrder) ∧
    gives (steps s.pending.length s) (fun t =>
      decide ((t.chan? 1).map (fun c => c.wireOut.map fun v => (⟨v, false, false⟩ : RxEntry)) = some sent)) = true := by
  decide

/-- FramedRoundTrip, with transforms: a decode that undoes the encode. -/
theorem witness_FramedRoundTrip_transforms :
    s1.params.configs[1]? = some ⟨1#8, some .add26⟩ ∧
      ∀ bs : List Byte, applyTransform .add26 .decode (applyTransform .add26 .encode bs) = bs := by
  refine ⟨by decide, fun bs => ?_⟩
  simp [applyTransform, Function.comp_def, add26Byte]

theorem witness_StepKeepsInv :
    let s := start (.chTx 1 0x1000#32 2#32) [.sequencer] s1
    inv s = true ∧ gives (step s) (fun _ => true) = true := by decide

/-- InvStepAnswersNext: with a move listed, and in the turn of the last line agent. -/
theorem witness_InvStepAnswersNext :
    let s := start (.portRx 1 0x2000#32 1#32 0#32) [.hostLoad 0x2001#32] s1
    (inv s = true ∧ s.nextAllowed = true) ∧ (inv { s1 with turn := 2 } = true ∧ { s1 with turn := 2 }.nextAllowed = true) := by decide

theorem witness_TransmitDiscipline :
    let s := { inside (.portTx 1 0x1000#32 2#32) .none .ptWrite s1 with pCh := 1#8, pSrc := .mem 0x1000#32, pLen := 2#32 }
    inv s = true ∧ s.pphase = .ptWrite := by decide

theorem witness_ReceiveDiscipline :
    let e : RxEntry := ⟨0x5A#8, true, true⟩
    let s := { inside (.portRx 1 0x2000#32 1#32 0#32) .none .prRead (withChans { chan with rxfifo := [e] } chan) with
      pCh := 1#8, pSrc := .mem 0x2000#32, pLen := 1#32, pE := 3#8 }
    inv s = true ∧ s.pphase = .prRead := by decide

/-- ReceiveHangsWithoutArrival: with a move of each kind listed, at the bytes next to the buffer and on the other channel. -/
theorem witness_ReceiveHangsWithoutArrival :
    let i : Instr := .portRx 1 0x2000#32 2#32 0x3000#32
    let moves : List Move := [.sequencer, .hostRead .bstat, .hostLoad 0x1FFF#32, .hostStore 0x2002#32 7#8, .lineTx 2,
      .lineRx 2 1#8 true false]
    let s := { inside i .none .prPoll s1 with
      pCh := 1#8, pSrc := .mem 0x2000#32, pLen := 2#32, pErr := .mem 0x3000#32, pending := moves }
    inv s = true ∧ s.bstat = .busy ∧ decode s.descriptor = .ok i ∧ s.pphase = .prPoll ∧ s.chan? s.pCh.toNat = some chan ∧
      chan.rxfifo = [] ∧ s.pending = moves ∧ namedRanges i = [(0x2000, 2), (0x3000, 1)] ∧
      (∀ g ∈ namedRanges i, ¬(g.1 ≤ (0x1FFF#32).toNat ∧ (0x1FFF#32).toNat < g.1 + g.2)) ∧
      (∀ g ∈ namedRanges i, ¬(g.1 ≤ (0x2002#32).toNat ∧ (0x2002#32).toNat < g.1 + g.2)) ∧
      2 ≤ s.params.nChannels ∧ 2 ≠ s.pCh.toNat := by decide

theorem witness_TransmitWaitEnds :
    let s := { inside (.portTx 1 0x1000#32 2#32) .none .ptPoll (withChans { chan with txbuf := [0x55#8] } chan) with
      pCh := 1#8, pSrc := .mem 0x1000#32, pLen := 2#32, pending := [] }
    inv s = true ∧ s.bstat = .busy ∧ s.pphase = .ptPoll ∧ s.pending = [] := by decide

/-- TransmitsAndInitsComplete: an operation of each kind at its first step, and inside it, a transmit on a full buffer. -/
theorem witness_TransmitsAndInitsComplete :
    let full : State := withChans { chan with txbuf := [0x55#8] } chan
    [Instr.portInit 1 9600#32, .chInit 0 9600#32, .portTx 1 0x1000#32 2#32, .chTx 1 0x1000#32 2#32].all (fun i =>
      let s := start i [] s1
      decide (Inv s ∧ s.bstat = .busy ∧ decode s.descriptor = .ok i ∧ s.pending = [] ∧ s.atStart = true)) = true ∧
    [(Instr.portInit 1 9600#32, FPhase.none, PPhase.pi1, Source.null, 0#32),
      (.chInit 0 9600#32, .none, .pi1, .null, 0#32), (.portTx 1 0x1000#32 2#32, .none, .ptPoll, .mem 0x1000#32, 2#32),
      (.chTx 1 0x1000#32 2#32, .ctLen, .ptPoll, .len, 4#32),
      (.chTx 1 0x1000#32 2#32, .ctPayload, .ptPoll, .mem 0x1000#32, 2#32)].all (fun x =>
      let s := { inside x.1 x.2.1 x.2.2.1 full with
        pCh := 1#8, pBrg := 520#16, curCfg := 1#8, lenBuf := ⟨2#8, 0#8, 0#8, 0#8⟩, pSrc := x.2.2.2.1, pLen := x.2.2.2.2,
        pending := [] }
      decide (Inv s ∧ s.bstat = .busy ∧ decode s.descriptor = .ok x.1 ∧ s.pending = [] ∧ s.atStart = false)) = true := by
  decide

theorem witness_ParametersNeverChange :
    gives (step { s1 with pending := [.reset []] }) (fun _ => true) = true := by decide

theorem witness_ResultsOnlyFromChRx :
    let s := { inside (.chRx 0 0x2000#32 1#32) .crResult .idle s1 with
      curCfg := 0#8, pktLen := 3#32, recvLen := 1#32, lenBuf := ⟨3#8, 0#8, 0#8, 0#8⟩, errSum := 3#8 }
    inv s = true ∧ (schedule s).1 = .sequencer ∧
      gives (step s) (fun t => decide (t.res0 ≠ s.res0 ∧ t.res1 ≠ s.res1)) = true := by decide

/-- ReadyOnlyByInit: a step that makes a channel READY, and one that keeps one so. -/
theorem witness_ReadyOnlyByInit :
    let s := initAt (.portInit 1 9600#32) .pi5 { Channel.reset with on := true, div := 520#16 }
    inv s = true ∧ (schedule s).1 = .sequencer ∧ s.isReady 1 = false ∧ s.isReady 2 = true ∧
      gives (step s) (fun t => t.isReady 1 && t.isReady 2) = true := by decide

theorem witness_LineAgentFrame :
    gives (step { s1 with pending := [.lineTx 2] }) (fun _ => true) = true ∧
      gives (step { s1 with pending := [.lineRx 1 7#8 false true] }) (fun _ => true) = true := by decide

/-- SequencerFrame: a first step, a step that changes its channel, one that stores a byte, also over other contents, and one
that reads a byte, with other contents outside it. -/
theorem witness_SequencerFrame :
    let i : Instr := .portInit 1 9600#32
    let r := { inside (.portRx 1 0x2000#32 1#32 0#32) .none .prStore s1 with
      pCh := 1#8, pSrc := .mem 0x2000#32, pLen := 1#32, pD := 7#8 }
    let t := { inside (.portTx 1 0x1000#32 2#32) .none .ptFetch s1 with pCh := 1#8, pSrc := .mem 0x1000#32, pLen := 2#32 }
    ((start i [] s1).atStart = true ∧ gives (exec i (start i [] s1)) (fun _ => true) = true) ∧
      gives (exec i (initAt i .pi1 chan)) (fun t => decide ((t.chan? 1).map Channel.on = some false)) = true ∧
      storedRanges i (initAt i .pi1 chan) = [] ∧
      (storedRanges (.portRx 1 0x2000#32 1#32 0#32) r = [(0x2000, 1)] ∧
        gives (exec (.portRx 1 0x2000#32 1#32 0#32) r) (fun u => decide (u.mem ≠ r.mem)) = true ∧
        fetchedRanges (.portRx 1 0x2000#32 1#32 0#32) r = [] ∧ Memory.wf r.mem = true ∧
        Memory.wf [(0x2000, 9#8), (0x2001, 9#8)] = true) ∧
      (fetchedRanges (.portTx 1 0x1000#32 2#32) t = [(0x1000, 1)] ∧
        Memory.read [(0x1000, 0x41#8), (0x2000, 9#8)] 0x1000 = Memory.read t.mem 0x1000 ∧
        gives (exec (.portTx 1 0x1000#32 2#32) t) (fun u => decide (u.pD = 0x41#8)) = true) := by decide

/-- WireOrder: a send, and the write of PT_WRITE. -/
theorem witness_WireOrder :
    let s := { withChans { chan with txbuf := [0x55#8] } chan with pending := [.lineTx 1] }
    let u := { inside (.portTx 1 0x1000#32 2#32) .none .ptWrite s1 with pCh := 1#8, pSrc := .mem 0x1000#32, pLen := 2#32 }
    s.chan? 1 = some { chan with txbuf := [0x55#8] } ∧
      gives (step s) (fun t => decide ((t.chan? 1).map Channel.wireOut = some [0x55#8])) = true ∧
      u.chan? 1 = some chan ∧ gives (step u) (fun t => (t.chan? 1).isSome) = true := by decide

end Sys2Proof.Machine.Slice0
end

section
/-! SUPPORT. The schedule and the sequencer's turn: which move a step applies and to which state (R12, R102), and what the
sequencer does in its turn (R130, R233). -/

namespace Sys2Proof.Machine

/-! ## The move that a step applies -/

/-- With moves listed, a step applies the first of them to the machine that has taken it off the list. -/
theorem step_of_pending {s : State} {m : Move} {rest : List Move} (h : s.pending = m :: rest) :
    step s = applyMove m { s with pending := rest } := by
  simp only [step, schedule, h]

/-- With no move listed, a step applies the move of the agent whose turn it is and passes the turn on. -/
theorem step_of_no_pending {s : State} (h : s.pending = []) :
    step s = applyMove (turnMove s.turn) { s with turn := nextTurn s.params.nChannels s.turn } := by
  simp only [step, schedule, h]

/-! ## The sequencer's turn -/

@[simp] theorem turnMove_zero : turnMove 0 = .sequencer := rfl

@[simp] theorem applyMove_sequencer (s : State) : applyMove .sequencer s = sequencerTurn s := rfl

theorem sequencerTurn_of_decode_ok {s : State} {i : Instr} (hb : s.bstat = .busy) (hd : decode s.descriptor = .ok i) :
    sequencerTurn s = exec i s := by
  simp only [sequencerTurn, hb, hd]

theorem sequencerTurn_of_decode_error {s : State} {e : DecodeError} (hb : s.bstat = .busy)
    (hd : decode s.descriptor = .error e) :
    sequencerTurn s = .next (raiseFault (decodeFault e).1 (decodeFault e).2 s) := by
  simp only [sequencerTurn, hb, hd]

theorem sequencerTurn_of_not_busy {s : State} (hb : s.bstat ≠ .busy) : sequencerTurn s = .next s := by
  unfold sequencerTurn
  split
  case h_1 h => exact absurd h hb
  case h_2 | h_3 => rfl

/-! ## The statement -/

/-- Settles O5: each clause names the move that the step applies, and then the sequencer's turn on the machine that has
taken it, whose block and descriptor are those of the machine before. -/
theorem stepRunsDecodedOperation : Obligations.StepRunsDecodedOperation := by
  refine ⟨?listed, ?byTurn, ?notBusy⟩
  case listed =>
    intro s rest i hp hb hd
    rw [step_of_pending hp, applyMove_sequencer]
    exact sequencerTurn_of_decode_ok hb hd
  case byTurn =>
    intro s i hp ht hb hd
    rw [step_of_no_pending hp, ht, turnMove_zero, applyMove_sequencer]
    exact sequencerTurn_of_decode_ok hb hd
  case notBusy =>
    intro s rest hp hb
    rw [step_of_pending hp, applyMove_sequencer]
    exact sequencerTurn_of_not_busy hb

end Sys2Proof.Machine
end

section
/-! SUPPORT. Block reset and the host's register reads (R39, R67 to R69). -/

namespace Sys2Proof.Machine

@[simp] theorem applyMove_reset (draws : List Draw) (s : State) :
    applyMove (.reset draws) s = .next (blockReset draws s) := rfl

@[simp] theorem applyMove_hostRead (r : HostReg) (s : State) :
    applyMove (.hostRead r) s = .next { s with hostData := s.hostReg r } := rfl

/-! ## The channels after a reset -/

theorem afterReset_rxfifo_le (p : Params) (d : Draw) : (Channel.afterReset p d).rxfifo.length ≤ p.rxDepth :=
  List.length_take_le _ _

theorem afterReset_txbuf_le (p : Params) (d : Draw) : (Channel.afterReset p d).txbuf.length ≤ p.txDepth :=
  List.length_take_le _ _

/-- A draw whose FIFOs fit their depths is taken as it is. -/
theorem afterReset_of_fits {p : Params} {d : Draw} (hr : d.rxfifo.length ≤ p.rxDepth) (ht : d.txbuf.length ≤ p.txDepth) :
    Channel.afterReset p d = ⟨.uninitialized, d.on, d.oerr, d.txen, d.rxen, d.div, d.rxfifo, d.txbuf, []⟩ := by
  simp only [Channel.afterReset, List.take_of_length_le hr, List.take_of_length_le ht]

/-- Every channel after a reset has taken some draw. -/
theorem mem_blockReset_chans {draws : List Draw} {s : State} {ch : Channel} (h : ch ∈ (blockReset draws s).chans) :
    ∃ d, ch = Channel.afterReset s.params d := by
  obtain ⟨i, -, rfl⟩ := List.mem_map.mp h
  exact ⟨_, rfl⟩

@[simp] theorem blockReset_chans_length (draws : List Draw) (s : State) :
    (blockReset draws s).chans.length = s.params.nChannels := by simp

/-- Channel k + 1 takes draw k. -/
theorem blockReset_chan? {draws : List Draw} {s : State} {k : Nat} {d : Draw} (hk : k < s.params.nChannels)
    (hd : draws[k]? = some d) : (blockReset draws s).chan? (k + 1) = some (Channel.afterReset s.params d) := by
  simp [State.chan?, hk, hd]

/-! ## The statements -/

/-- Settles O11: the step is the block reset, whose fields are those of R67 by definition, and every channel is one that
`Channel.afterReset` gives. -/
theorem blockResetValues : Obligations.BlockResetValues := by
  intro s draws rest hp
  rw [step_of_pending hp, applyMove_reset]
  refine ⟨_, rfl, ?_⟩
  have huninit : ∀ ch ∈ (blockReset draws { s with pending := rest }).chans, ch.chst = .uninitialized := by
    intro ch hch
    obtain ⟨d, rfl⟩ := mem_blockReset_chans hch
    rfl
  exact ⟨rfl, rfl, rfl, rfl, rfl, rfl, rfl, rfl, rfl, rfl, rfl, rfl, rfl, rfl, rfl, rfl, rfl, rfl, rfl, rfl, rfl, rfl,
    rfl, rfl, rfl, blockReset_chans_length _ _, huninit⟩

/-- Settles O12: each channel takes its draw, cut to the depths, which leaves a draw that fits them as it is. -/
theorem resetDrawsPeripherals : Obligations.ResetDrawsPeripherals := by
  intro s draws rest hp
  rw [step_of_pending hp, applyMove_reset]
  refine ⟨_, rfl, rfl, rfl, rfl, ?shapes, ?drawn⟩
  case shapes =>
    intro ch hch
    obtain ⟨d, rfl⟩ := mem_blockReset_chans hch
    exact ⟨rfl, afterReset_rxfifo_le _ d, afterReset_txbuf_le _ d⟩
  case drawn =>
    intro k d hk hd hr ht
    exact (blockReset_chan? hk hd).trans (congrArg some (afterReset_of_fits hr ht))

/-- Settles O13: the step is the host's read, and the register it delivers is named by cases on its number. -/
theorem hostReadsRegisters : Obligations.HostReadsRegisters := by
  intro s r rest hp
  rw [step_of_pending hp, applyMove_hostRead]
  cases r with
  | d0 | d1 | d2 | d3 | res0 | res1 | bstat | fcause | finfo => rfl

/-- Settles O47: the state after reset is one closed datum, and each part of the invariant is decided on it. -/
theorem invAtReset : Obligations.InvAtReset := by
  refine ⟨?shape, ?status, ?ready, ?phase⟩
  case shape => decide
  case status => decide
  case ready => decide
  case phase => decide

end Sys2Proof.Machine
end

section
/-! SUPPORT. What each step of an operation can do: for every step function of the port engine and of the framing layer one
lemma that names the next state it answers (R155 steps 2 to 6, R159, R164, R197, R202). -/

namespace Sys2Proof.Machine

/-! ## The end of a transfer -/

theorem advance_of_last {poll : PPhase} {w1 w2 : Word} {s : State} (h : s.pIdx + 1#32 = s.pLen) :
    advance poll w1 w2 s = finishTransfer w1 w2 { s with pIdx := s.pIdx + 1#32, pphase := .idle } := if_pos h

theorem advance_of_more {poll : PPhase} {w1 w2 : Word} {s : State} (h : s.pIdx + 1#32 ≠ s.pLen) :
    advance poll w1 w2 s = .ok { s with pIdx := s.pIdx + 1#32, pphase := poll } := if_neg h

/-! ## The init sequence -/

/-- A replaced channel is a change of the list of channels alone. -/
theorem setChan_eq (s : State) (c : Nat) (ch : Channel) :
    s.setChan c ch = { s with chans := (s.setChan c ch).chans } := by
  cases c <;> rfl

/-- A register write changes the list of channels alone. -/
theorem regWrite_chans {s t : State} {c : Nat} {r : Reg} {v : Word} :
    regWrite s c r v = .ok t ↔
      ∃ ch, s.chan? c = some ch ∧ t = { s with chans := (s.setChan c (ch.writeReg s.params r v)).chans } := by
  simp only [regWrite_ok, ← setChan_eq]

theorem initWrite_ok {r : Reg} {v : Word} {next : PPhase} {s t : State} :
    initWrite r v next s = .ok t ↔
      ∃ ch, s.chan? s.pCh.toNat = some ch ∧
        t = { s with chans := (s.setChan s.pCh.toNat (ch.writeReg s.params r v)).chans, pphase := next } := by
  simp only [initWrite, exceptBind_ok, regWrite_chans]
  constructor
  · rintro ⟨_, ⟨ch, hc, rfl⟩, h⟩
    exact ⟨ch, hc, by simpa using h.symm⟩
  · rintro ⟨ch, hc, rfl⟩
    exact ⟨_, ⟨ch, hc, rfl⟩, rfl⟩

/-- Setting a channel READY right after it has been replaced. -/
theorem setReady_setChan {s : State} {c : Nat} {ch : Channel} (ch' : Channel) (h : s.chan? c = some ch) :
    setReady c (s.setChan c ch') = { s with chans := (s.setChan c { ch' with chst := .ready }).chans } := by
  simp only [setReady, chan?_setChan_same ch' h]
  cases c with
  | zero => rfl
  | succ k => simp only [State.setChan, List.set_set]

theorem stepPi5_ok {w1 w2 : Word} {s t : State} :
    stepPi5 w1 w2 s = .ok t ↔
      ∃ ch, s.chan? s.pCh.toNat = some ch ∧
        finishTransfer w1 w2
          { s with
            chans := (s.setChan s.pCh.toNat { ch.writeStatus 0x00000300#32 with chst := .ready }).chans
            pphase := .idle } = .ok t := by
  simp only [stepPi5, exceptBind_ok, regWrite_ok]
  constructor
  · rintro ⟨_, ⟨ch, hc, rfl⟩, h⟩
    rw [setChan_pCh, setReady_setChan _ hc] at h
    exact ⟨ch, hc, h⟩
  · rintro ⟨ch, hc, h⟩
    refine ⟨_, ⟨ch, hc, rfl⟩, ?_⟩
    rw [setChan_pCh, setReady_setChan _ hc]
    exact h

/-! ## TxBytes -/

theorem stepPtPoll_ok {s t : State} (h : stepPtPoll s = .ok t) :
    ∃ ch, s.chan? s.pCh.toNat = some ch ∧
      ((ch.txbf s.params.txDepth = true ∧ t = s) ∨
        (ch.txbf s.params.txDepth = false ∧
          ((∃ b, s.pSrc = .len ∧ t = { s with pD := b, pphase := .ptWrite }) ∨
            (s.pSrc ≠ .len ∧ t = { s with pphase := .ptFetch })))) := by
  simp only [stepPtPoll, exceptBind_ok, Prod.exists, regRead_status_ok] at h
  obtain ⟨_, _, ⟨ch, hc, rfl, rfl⟩, h⟩ := h
  refine ⟨ch, hc, ?_⟩
  rw [statusWord_txbf] at h
  split at h
  case isTrue hf => exact .inl ⟨hf, by simpa using h.symm⟩
  case isFalse hf =>
    refine .inr ⟨by simpa using hf, ?_⟩
    split at h
    case h_1 hs =>
      split at h
      case h_1 b _ => exact .inl ⟨b, hs, by simpa using h.symm⟩
      case h_2 => cases h
    case h_2 hs | h_3 hs => exact .inr ⟨by simp [hs], by simpa using h.symm⟩

theorem stepPtFetch_ok {s t : State} (h : stepPtFetch s = .ok t) :
    ∃ b, t = { s with pD := b, pphase := .ptWrite } := by
  unfold stepPtFetch at h
  split at h
  · obtain ⟨b, -, hb⟩ := exceptBind_ok.mp h
    exact ⟨b, by simpa using hb.symm⟩
  all_goals cases h

theorem stepPtWrite_ok {w1 w2 : Word} {s t : State} :
    stepPtWrite w1 w2 s = .ok t ↔
      ∃ ch, s.chan? s.pCh.toNat = some ch ∧
        advance .ptPoll w1 w2
          { s with chans := (s.setChan s.pCh.toNat (ch.writeTxreg s.params.txDepth (s.pD.setWidth 32))).chans } =
            .ok t := by
  simp only [stepPtWrite, exceptBind_ok, regWrite_chans]
  constructor
  · rintro ⟨_, ⟨ch, hc, rfl⟩, h⟩
    exact ⟨ch, hc, h⟩
  · rintro ⟨ch, hc, h⟩
    exact ⟨_, ⟨ch, hc, rfl⟩, h⟩

/-! ## RxBytes -/

theorem stepPrPoll_ok {s t : State} (h : stepPrPoll s = .ok t) :
    ∃ ch, s.chan? s.pCh.toNat = some ch ∧
      let u := { s with pS := ch.statusWord s.params.txDepth }
      ((∃ x xs, ch.rxfifo = x :: xs ∧ t = mergeErrors x.bits u) ∨
        t = { u with pphase := .prClear } ∨ t = u) := by
  simp only [stepPrPoll, exceptBind_ok, Prod.exists, regRead_status_ok] at h
  obtain ⟨_, _, ⟨ch, hc, rfl, rfl⟩, h⟩ := h
  refine ⟨ch, hc, ?_⟩
  simp only [statusWord_rxda, statusWord_perr, statusWord_ferr] at h
  split at h
  case isTrue ha =>
    cases hf : ch.rxfifo with
    | nil => simp [Channel.rxda, hf] at ha
    | cons x xs =>
      refine .inl ⟨x, xs, rfl, ?_⟩
      simp only [Channel.perr, Channel.ferr, hf, Except.ok.injEq] at h
      exact h.symm
  case isFalse =>
    split at h
    · exact .inr (.inl (by simpa using h.symm))
    · exact .inr (.inr (by simpa using h.symm))

theorem stepPrMrd_ok {s t : State} (h : stepPrMrd s = .ok t) : ∃ b, t = { s with pD := b, pphase := .prMwr } := by
  unfold stepPrMrd at h
  split at h
  · obtain ⟨b, -, hb⟩ := exceptBind_ok.mp h
    exact ⟨b, by simpa using hb.symm⟩
  all_goals cases h

theorem stepPrMwr_ok {s t : State} (h : stepPrMwr s = .ok t) :
    ∃ e, s.pErr = .mem e ∧ e.toNat < 4294967296 ∧
      t = { s with mem := Memory.write s.mem e.toNat (s.pD ||| s.pE), pphase := .prRead } := by
  unfold stepPrMwr at h
  split at h
  case h_1 e he =>
    obtain ⟨_, hw, ht⟩ := exceptBind_ok.mp h
    obtain ⟨hlt, rfl⟩ := memWrite_ok.mp hw
    exact ⟨e, he, hlt, by simpa using ht.symm⟩
  all_goals cases h

/-- A read of RXREG of channel P_CH gives some word and leaves the channel without the head of its FIFO; on an empty FIFO
only the count of draws moves. -/
theorem regRead_rxreg_ok {s u : State} {c : Nat} {v : Word} (h : regRead s c .rxreg = .ok (v, u)) :
    ∃ ch d, s.chan? c = some ch ∧
      u = { s with chans := (s.setChan c { ch with rxfifo := ch.rxfifo.tail }).chans, draws := d } := by
  cases hc : s.chan? c with
  | none => simp [regRead_of_no_chan hc] at h
  | some ch =>
    cases hf : ch.rxfifo with
    | nil =>
      rw [regRead_rxreg_of_empty hc hf] at h
      obtain ⟨-, rfl⟩ : _ ∧ _ = u := by simpa using h
      refine ⟨ch, s.draws + 1, rfl, ?_⟩
      have : { ch with rxfifo := ch.rxfifo.tail } = ch := by cases ch; simp_all
      rw [this, setChan_self hc]
    | cons x xs =>
      rw [regRead_rxreg_of_entry hc hf] at h
      obtain ⟨-, rfl⟩ : _ ∧ _ = u := by simpa using h
      exact ⟨ch, s.draws, rfl, by rw [hf]; exact setChan_eq _ _ _⟩

/-- PR_READ on a buffer goes to store the byte; on LENBUF and on the discard sink it is done with the byte. -/
theorem stepPrRead_ok {w1 w2 : Word} {s t : State} (h : stepPrRead w1 w2 s = .ok t) :
    ∃ ch d b, s.chan? s.pCh.toNat = some ch ∧
      let u := { s with
        chans := (s.setChan s.pCh.toNat { ch with rxfifo := ch.rxfifo.tail }).chans, draws := d, pD := b }
      ((∃ a, s.pSrc = .mem a) ∧ t = { u with pphase := .prStore }) ∨
        (s.pSrc = .len ∧ ∃ l, advance .prPoll w1 w2 { u with lenBuf := l } = .ok t) ∨
        (s.pSrc = .null ∧ advance .prPoll w1 w2 u = .ok t) := by
  simp only [stepPrRead, exceptBind_ok, Prod.exists] at h
  obtain ⟨v, _, hr, h⟩ := h
  obtain ⟨ch, d, hc, rfl⟩ := regRead_rxreg_ok hr
  refine ⟨ch, d, v.extractLsb' 0 8, hc, ?_⟩
  simp only at h
  split at h
  case h_1 a hs => exact .inl ⟨⟨a, hs⟩, by simpa using h.symm⟩
  case h_2 hs =>
    split at h
    case h_1 l _ => exact .inr (.inl ⟨hs, l, h⟩)
    case h_2 => cases h
  case h_3 hs => exact .inr (.inr ⟨hs, h⟩)

theorem stepPrStore_ok {w1 w2 : Word} {s t : State} (h : stepPrStore w1 w2 s = .ok t) :
    ∃ b, s.pSrc = .mem b ∧ byteAddr b s.pIdx < 4294967296 ∧
      advance .prPoll w1 w2 { s with mem := Memory.write s.mem (byteAddr b s.pIdx) s.pD } = .ok t := by
  unfold stepPrStore at h
  split at h
  case h_1 b hs =>
    obtain ⟨_, hw, h⟩ := exceptBind_ok.mp h
    obtain ⟨hlt, rfl⟩ := memWrite_ok.mp hw
    exact ⟨b, hs, hlt, h⟩
  all_goals cases h

/-! ## The framing steps -/

/-- A transform step changes caller memory alone, and keeps its canonical form (R192). -/
theorem transformRange_mem {s t : State} {d : Dir} {a n : Nat} (h : transformRange s d a n = .ok t) :
    ∃ m, t = { s with mem := m } ∧ (Memory.wf s.mem = true → Memory.wf m = true) := by
  obtain ⟨g, -, ⟨-, rfl⟩ | ⟨x, -, -, hr, rfl⟩⟩ := transformRange_ok.mp h
  · exact ⟨t.mem, rfl, id⟩
  · exact ⟨_, rfl, fun hm => transformMem_wf hm hr⟩

theorem stepCtEncode_ok {a n : Word} {s t : State} (h : stepCtEncode a n s = .ok t) :
    ∃ g m, s.params.configs[s.curCfg.toNat]? = some g ∧ (Memory.wf s.mem = true → Memory.wf m = true) ∧
      t = startTx g.channel .len 4#32 { s with mem := m, fphase := .ctLen } := by
  unfold stepCtEncode at h
  split at h
  · cases h
  · obtain ⟨_, ht, h⟩ := exceptBind_ok.mp h
    obtain ⟨m, rfl, hm⟩ := transformRange_mem ht
    exact ⟨_, m, by assumption, hm, by simpa using h.symm⟩

theorem stepCrDecode_ok {b : Word} {s t : State} (h : stepCrDecode b s = .ok t) :
    ∃ m, (Memory.wf s.mem = true → Memory.wf m = true) ∧ t = { s with mem := m, fphase := .crResult } := by
  obtain ⟨_, ht, h⟩ := exceptBind_ok.mp h
  obtain ⟨m, rfl, hm⟩ := transformRange_mem ht
  exact ⟨m, hm, by simpa using h.symm⟩

/-! ## The step that FPHASE and PPHASE name -/

theorem portStep_idle {w1 w2 : Word} {s : State} (h : s.pphase = .idle) :
    portStep w1 w2 s = .error .strayPhase := by
  simp only [portStep, h]

theorem portStep_pi1 {w1 w2 : Word} {s : State} (h : s.pphase = .pi1) :
    portStep w1 w2 s = initWrite .mode 0x00000000#32 .pi2 s := by
  simp only [portStep, h]

theorem portStep_pi2 {w1 w2 : Word} {s : State} (h : s.pphase = .pi2) :
    portStep w1 w2 s = initWrite .status 0x00000000#32 .pi3 s := by
  simp only [portStep, h]

theorem portStep_pi3 {w1 w2 : Word} {s : State} (h : s.pphase = .pi3) :
    portStep w1 w2 s = initWrite .brg (s.pBrg.setWidth 32) .pi4 s := by
  simp only [portStep, h]

theorem portStep_pi4 {w1 w2 : Word} {s : State} (h : s.pphase = .pi4) :
    portStep w1 w2 s = initWrite .mode 0x00000001#32 .pi5 s := by
  simp only [portStep, h]

theorem portStep_pi5 {w1 w2 : Word} {s : State} (h : s.pphase = .pi5) :
    portStep w1 w2 s = stepPi5 w1 w2 s := by
  simp only [portStep, h]

theorem portStep_ptPoll {w1 w2 : Word} {s : State} (h : s.pphase = .ptPoll) :
    portStep w1 w2 s = stepPtPoll s := by
  simp only [portStep, h]

theorem portStep_ptFetch {w1 w2 : Word} {s : State} (h : s.pphase = .ptFetch) :
    portStep w1 w2 s = stepPtFetch s := by
  simp only [portStep, h]

theorem portStep_ptWrite {w1 w2 : Word} {s : State} (h : s.pphase = .ptWrite) :
    portStep w1 w2 s = stepPtWrite w1 w2 s := by
  simp only [portStep, h]

theorem portStep_prPoll {w1 w2 : Word} {s : State} (h : s.pphase = .prPoll) :
    portStep w1 w2 s = stepPrPoll s := by
  simp only [portStep, h]

theorem portStep_prClear {w1 w2 : Word} {s : State} (h : s.pphase = .prClear) :
    portStep w1 w2 s = stepPrClear s := by
  simp only [portStep, h]

theorem portStep_prMrd {w1 w2 : Word} {s : State} (h : s.pphase = .prMrd) :
    portStep w1 w2 s = stepPrMrd s := by
  simp only [portStep, h]

theorem portStep_prMwr {w1 w2 : Word} {s : State} (h : s.pphase = .prMwr) :
    portStep w1 w2 s = stepPrMwr s := by
  simp only [portStep, h]

theorem portStep_prRead {w1 w2 : Word} {s : State} (h : s.pphase = .prRead) :
    portStep w1 w2 s = stepPrRead w1 w2 s := by
  simp only [portStep, h]

theorem portStep_prStore {w1 w2 : Word} {s : State} (h : s.pphase = .prStore) :
    portStep w1 w2 s = stepPrStore w1 w2 s := by
  simp only [portStep, h]

/-! The four phases that access caller memory, where their operand is there. -/

theorem portStep_ptFetch_of_mem {w1 w2 a : Word} {s : State} (h : s.pphase = .ptFetch) (hs : s.pSrc = .mem a) :
    portStep w1 w2 s =
      (memRead s (byteAddr a s.pIdx)).bind fun b => .ok { s with pD := b, pphase := .ptWrite } := by
  simp only [portStep_ptFetch h, stepPtFetch, hs]

theorem portStep_prMrd_of_mem {w1 w2 e : Word} {s : State} (h : s.pphase = .prMrd) (he : s.pErr = .mem e) :
    portStep w1 w2 s = (memRead s e.toNat).bind fun b => .ok { s with pD := b, pphase := .prMwr } := by
  simp only [portStep_prMrd h, stepPrMrd, he]

theorem portStep_prMwr_of_mem {w1 w2 e : Word} {s : State} (h : s.pphase = .prMwr) (he : s.pErr = .mem e) :
    portStep w1 w2 s = (memWrite s e.toNat (s.pD ||| s.pE)).bind fun u => .ok { u with pphase := .prRead } := by
  simp only [portStep_prMwr h, stepPrMwr, he]

theorem portStep_prStore_of_mem {w1 w2 b : Word} {s : State} (h : s.pphase = .prStore) (hs : s.pSrc = .mem b) :
    portStep w1 w2 s = (memWrite s (byteAddr b s.pIdx) s.pD).bind (advance .prPoll w1 w2) := by
  simp only [portStep_prStore h, stepPrStore, hs]

/-- CT_ENCODE, CR_DECODE and CR_RESULT are not the port engine's. -/
theorem continueOp_ctEncode {w1 w2 : Word} {s : State} (h : s.fphase = .ctEncode) :
    continueOp w1 w2 s = stepCtEncode w1 w2 s := by
  simp only [continueOp, h]

theorem continueOp_crDecode {w1 w2 : Word} {s : State} (h : s.fphase = .crDecode) :
    continueOp w1 w2 s = stepCrDecode w1 s := by
  simp only [continueOp, h]

theorem continueOp_crResult {w1 w2 : Word} {s : State} (h : s.fphase = .crResult) :
    continueOp w1 w2 s = .ok (stepCrResult s) := by
  simp only [continueOp, h]

theorem continueOp_of_portTurn {w1 w2 : Word} {s : State} (h : s.portTurn) : continueOp w1 w2 s = portStep w1 w2 s := by
  obtain ⟨h1, h2, h3⟩ := h
  unfold continueOp
  split
  case h_1 hf => exact absurd hf h1
  case h_2 hf => exact absurd hf h2
  case h_3 hf => exact absurd hf h3
  all_goals rfl

/-- Step 1 of an operation. -/
def acceptOp : Instr → State → State
  | .portInit c baud => acceptInit c baud
  | .portTx c a n => acceptPortTx c a n
  | .portRx c b n e => acceptPortRx c b n e
  | .chInit k baud => acceptChInit k baud
  | .chTx k a n => acceptChTx k a n
  | .chRx k b m => acceptChRx k b m

/-- The step of an operation: its step 1, or the step that the two phases name, on the words that its descriptor carries. -/
def stepOp (i : Instr) (s : State) : Except Fault State :=
  if s.atStart then .ok (acceptOp i s) else continueOp (operandWords i).1 (operandWords i).2 s

theorem exec_eq (i : Instr) (s : State) : exec i s = toOutcome (stepOp i s) := by
  cases i <;> simp only [exec, execPortInit, execPortTx, execPortRx, execChInit, execChTx, execChRx, stepOp] <;>
    split <;> rfl

theorem exec_next {i : Instr} {s t : State} : exec i s = .next t ↔ stepOp i s = .ok t := by
  rw [exec_eq, toOutcome_next]

theorem stepOp_of_atStart {i : Instr} {s : State} (h : s.atStart = true) : stepOp i s = .ok (acceptOp i s) := if_pos h

theorem stepOp_of_not_atStart {i : Instr} {s : State} (h : s.atStart = false) :
    stepOp i s = continueOp (operandWords i).1 (operandWords i).2 s := if_neg (by simp [h])

end Sys2Proof.Machine
end

section
/-! SUPPORT. What a step of an operation does to caller memory, by the ranges it names: the steps that read and write no
byte commute with a change of caller memory, and every other step is one read, one write or one transform before such a step
(R32, R82, R83, R192). -/

namespace Sys2Proof.Machine

/-- The machine over another caller memory. -/
def State.withMem (s : State) (m : List Host.Cell) : State := { s with mem := m }

@[simp] theorem withMem_chan? (s : State) (m : List Host.Cell) (c : Nat) : (s.withMem m).chan? c = s.chan? c :=
  chan?_congr rfl c

theorem withMem_setChan (s : State) (m : List Host.Cell) (c : Nat) (ch : Channel) :
    (s.withMem m).setChan c ch = (s.setChan c ch).withMem m := by
  cases c <;> rfl

/-! ## Steps that access no caller memory -/

/-- A step that neither reads nor writes caller memory: over another memory it does the same. -/
def MemBlind (f : State → Except Fault State) : Prop := ∀ s m, f (s.withMem m) = (f s).map (·.withMem m)

theorem MemBlind.ok {f : State → Except Fault State} (hf : MemBlind f) {s t : State} (h : f s = .ok t)
    (m : List Host.Cell) : f (s.withMem m) = .ok (t.withMem m) := by
  rw [hf s m, h]
  rfl

/-- Where a step that accesses no memory answers, it leaves memory alone. -/
theorem MemBlind.mem_eq {f : State → Except Fault State} (hf : MemBlind f) {s t : State} (h : f s = .ok t) :
    t.mem = s.mem := by
  have hs : f s = .ok (t.withMem s.mem) := hf.ok h s.mem
  have ht : t = t.withMem s.mem := Except.ok.inj (h.symm.trans hs)
  exact (congrArg State.mem ht :)

/-- A step after another, both without memory. -/
theorem MemBlind.bind {f g : State → Except Fault State} (hf : MemBlind f) (hg : MemBlind g) :
    MemBlind fun s => (f s).bind g := by
  intro s m
  simp only [hf s m]
  cases f s with
  | error e => rfl
  | ok t => exact hg t m

theorem memBlind_ok {f : State → State} (h : ∀ s m, f (s.withMem m) = (f s).withMem m) : MemBlind fun s => .ok (f s) :=
  fun s m => congrArg Except.ok (h s m)

theorem regWrite_memBlind (c : State → Nat) (r : Reg) (v : State → Word) (hc : ∀ s m, c (s.withMem m) = c s)
    (hv : ∀ s m, v (s.withMem m) = v s) : MemBlind fun s => regWrite s (c s) r (v s) := by
  intro s m
  simp only [regWrite, withMem_chan?, hc, hv]
  cases s.chan? (c s) with
  | none => rfl
  | some ch => exact congrArg Except.ok (withMem_setChan s m (c s) _)

/-- A register read over another memory gives the same value and the same state but for the memory. -/
theorem regRead_withMem (s : State) (m : List Host.Cell) (c : Nat) (r : Reg) :
    regRead (s.withMem m) c r = (regRead s c r).map fun x => (x.1, x.2.withMem m) := by
  simp only [regRead, withMem_chan?]
  cases s.chan? c with
  | none => rfl
  | some ch =>
    cases r with
    | rxreg =>
      simp only [readRxreg]
      cases ch.rxfifo with
      | nil => rfl
      | cons x xs => exact congrArg (fun u => Except.ok (_, u)) (withMem_setChan s m c _)
    | mode | status | txreg | brg => rfl

/-- A register read and a step that goes on from its value. -/
theorem regRead_bind_memBlind (r : Reg) {g : Word × State → Except Fault State}
    (hg : ∀ v, MemBlind fun s => g (v, s)) : MemBlind fun s => (regRead s s.pCh.toNat r).bind g := by
  intro s m
  have := regRead_withMem s m s.pCh.toNat r
  simp only [show (s.withMem m).pCh = s.pCh from rfl, this]
  cases regRead s s.pCh.toNat r with
  | error e => rfl
  | ok x => exact hg x.1 x.2 m

/-! ### The end of a transfer -/

theorem afterDrain_memBlind : MemBlind afterDrain := by
  intro s m
  simp only [afterDrain, State.withMem]
  cases s.params.configs[s.curCfg.toNat]? <;> rfl

theorem afterPayload_memBlind : MemBlind afterPayload := by
  intro s m
  by_cases h : s.recvLen < s.pktLen
  · simp only [afterPayload, State.withMem, h, if_true]
    rfl
  · simp only [afterPayload, State.withMem, h, if_false]
    exact afterDrain_memBlind s m

theorem afterPrefix_memBlind (b n : Word) : MemBlind (afterPrefix b n) := by
  intro s m
  by_cases h : 0#32 < minWord (assemble s.params.nativeOrder s.lenBuf) n
  · simp only [afterPrefix, State.withMem, h, if_true]
    rfl
  · simp only [afterPrefix, State.withMem, h, if_false]
    exact afterPayload_memBlind { s with
      pktLen := assemble s.params.nativeOrder s.lenBuf
      recvLen := minWord (assemble s.params.nativeOrder s.lenBuf) n } m

theorem afterLength_memBlind (a n : Word) : MemBlind (afterLength a n) := by
  intro s m
  by_cases h : n = 0#32
  · simp only [afterLength, h, if_true]
    rfl
  · simp only [afterLength, h, if_false]
    rfl

theorem finishTransfer_memBlind (w1 w2 : Word) : MemBlind (finishTransfer w1 w2) := by
  intro s m
  have hs : (s.withMem m).fphase = s.fphase := rfl
  simp only [finishTransfer, hs]
  cases s.fphase with
  | none | ctPayload | ctEncode | crDecode | crResult => rfl
  | ctLen => exact afterLength_memBlind w1 w2 s m
  | crLen => exact afterPrefix_memBlind w1 w2 s m
  | crPayload => exact afterPayload_memBlind s m
  | crDrain => exact afterDrain_memBlind s m

theorem advance_memBlind (poll : PPhase) (w1 w2 : Word) : MemBlind (advance poll w1 w2) := by
  intro s m
  by_cases h : s.pIdx + 1#32 = s.pLen
  · rw [advance_of_last h, advance_of_last (s := s.withMem m) h]
    exact finishTransfer_memBlind w1 w2 { s with pIdx := s.pIdx + 1#32, pphase := .idle } m
  · rw [advance_of_more h, advance_of_more (s := s.withMem m) h]
    rfl

/-! ### The steps of the port engine -/

theorem initWrite_memBlind (r : Reg) (v : State → Word) (hv : ∀ s m, v (s.withMem m) = v s) (next : PPhase) :
    MemBlind fun s => initWrite r (v s) next s :=
  (regWrite_memBlind (·.pCh.toNat) r v (fun _ _ => rfl) hv).bind (memBlind_ok fun _ _ => rfl)

theorem setReady_withMem (c : Nat) (s : State) (m : List Host.Cell) :
    setReady c (s.withMem m) = (setReady c s).withMem m := by
  simp only [setReady, withMem_chan?]
  cases s.chan? c with
  | none => rfl
  | some ch => exact withMem_setChan s m c _

theorem stepPi5_memBlind (w1 w2 : Word) : MemBlind (stepPi5 w1 w2) := by
  refine (regWrite_memBlind (·.pCh.toNat) .status (fun _ => 0x00000300#32) (fun _ _ => rfl) fun _ _ => rfl).bind ?_
  intro s m
  simp only [show (s.withMem m).pCh = s.pCh from rfl, setReady_withMem]
  exact finishTransfer_memBlind w1 w2 { setReady s.pCh.toNat s with pphase := .idle } m

theorem stepPtPoll_memBlind : MemBlind stepPtPoll := by
  refine regRead_bind_memBlind .status fun v s m => ?_
  simp only [State.withMem]
  cases Status.txbf v with
  | true => rfl
  | false =>
    cases s.pSrc with
    | mem | null => rfl
    | len => cases s.lenBuf.get? s.pIdx.toNat <;> rfl

theorem stepPtWrite_memBlind (w1 w2 : Word) : MemBlind (stepPtWrite w1 w2) :=
  (regWrite_memBlind (·.pCh.toNat) .txreg (·.pD.setWidth 32) (fun _ _ => rfl) fun _ _ => rfl).bind
    (advance_memBlind .ptPoll w1 w2)

theorem mergeErrors_withMem (e : Byte) (s : State) (m : List Host.Cell) :
    mergeErrors e (s.withMem m) = (mergeErrors e s).withMem m := by
  simp only [mergeErrors, State.withMem]
  cases s.pErr <;> rfl

theorem stepPrPoll_memBlind : MemBlind stepPrPoll := by
  refine regRead_bind_memBlind .status fun v s m => ?_
  dsimp only
  cases Status.rxda v with
  | true => exact congrArg Except.ok (mergeErrors_withMem _ { s with pS := v } m)
  | false => cases Status.oerr v <;> rfl

theorem stepPrClear_memBlind : MemBlind stepPrClear :=
  initWrite_memBlind .status (overrunClear ·.pS) (fun _ _ => rfl) .prPoll

theorem stepPrRead_memBlind (w1 w2 : Word) : MemBlind (stepPrRead w1 w2) := by
  refine regRead_bind_memBlind .rxreg fun v s m => ?_
  simp only [State.withMem]
  cases hs : s.pSrc with
  | mem => rfl
  | null => simpa only [State.withMem, hs] using advance_memBlind .prPoll w1 w2 { s with pD := v.extractLsb' 0 8 } m
  | len =>
    cases hl : s.lenBuf.set? s.pIdx.toNat (v.extractLsb' 0 8) with
    | none => simp only [Except.map]
    | some l =>
      simpa only [State.withMem, hs, hl] using
        advance_memBlind .prPoll w1 w2 { s with pD := v.extractLsb' 0 8, lenBuf := l } m

/-! ### Step 1 of an operation -/

theorem acceptInit_withMem (c : Nat) (baud : Word) (s : State) (m : List Host.Cell) :
    acceptInit c baud (s.withMem m) = (acceptInit c baud s).withMem m := by
  simp only [acceptInit, show checkInit (s.withMem m) c baud = checkInit s c baud from rfl]
  cases checkInit s c baud <;> rfl

theorem acceptOp_withMem (i : Instr) (s : State) (m : List Host.Cell) :
    acceptOp i (s.withMem m) = (acceptOp i s).withMem m := by
  cases i with
  | portInit c baud => exact acceptInit_withMem c baud s m
  | portTx c a n =>
    simp only [acceptOp, acceptPortTx, show checkTx (s.withMem m) c a n = checkTx s c a n from rfl]
    cases checkTx s c a n with
    | error e => rfl
    | ok u => by_cases hn : n = 0#32 <;> simp only [hn, if_true, if_false] <;> rfl
  | portRx c b n e =>
    simp only [acceptOp, acceptPortRx, show checkPortRx (s.withMem m) c b n e = checkPortRx s c b n e from rfl]
    cases checkPortRx s c b n e with
    | error e => rfl
    | ok u => by_cases hn : n = 0#32 <;> simp only [hn, if_true, if_false] <;> rfl
  | chInit k baud =>
    simp only [acceptOp, acceptChInit, show (s.withMem m).params = s.params from rfl]
    cases findConfig s.params k with
    | error e => rfl
    | ok g => exact acceptInit_withMem g.channel.toNat baud s m
  | chTx k a n =>
    simp only [acceptOp, acceptChTx, show (s.withMem m).params = s.params from rfl]
    cases findConfig s.params k with
    | error e => rfl
    | ok g =>
      simp only [show checkTx (s.withMem m) g.channel.toNat a n = checkTx s g.channel.toNat a n from rfl]
      cases checkTx s g.channel.toNat a n with
      | error e => rfl
      | ok u => cases g.transform <;> rfl
  | chRx k b n =>
    simp only [acceptOp, acceptChRx, show (s.withMem m).params = s.params from rfl]
    cases findConfig s.params k with
    | error e => rfl
    | ok g =>
      simp only [show checkChRx (s.withMem m) g.channel.toNat b n = checkChRx s g.channel.toNat b n from rfl]
      cases checkChRx s g.channel.toNat b n <;> rfl

/-! ## What a step does to memory, by the ranges that it fetches and stores -/

/-- No range holds the address. -/
def Outside (rs : List (Nat × Nat)) (x : Nat) : Prop := ∀ r ∈ rs, x < r.1 ∨ r.1 + r.2 ≤ x

/-- The two memories read alike inside the ranges. -/
def AgreeOn (rs : List (Nat × Nat)) (m m' : List Host.Cell) : Prop :=
  ∀ r ∈ rs, ∀ x, r.1 ≤ x → x < r.1 + r.2 → Memory.read m x = Memory.read m' x

theorem outside_singleton {a n x : Nat} : Outside [(a, n)] x ↔ x < a ∨ a + n ≤ x := by simp [Outside]

theorem agreeOn_singleton {a n : Nat} {m m' : List Host.Cell} :
    AgreeOn [(a, n)] m m' ↔ ∀ x, a ≤ x → x < a + n → Memory.read m x = Memory.read m' x := by simp [AgreeOn]

/-- What `run`, a step from a state over any caller memory, does to memory where it goes from state s to state t: it stores
only into the `stored` ranges, and depends only on the `fetched` ranges. -/
structure MemFrame (fetched stored : List (Nat × Nat)) (run : List Host.Cell → Except Fault State) (s t : State) :
    Prop where
  mem_eq : stored = [] → t.mem = s.mem
  outside : ∀ x, Outside stored x → Memory.read t.mem x = Memory.read s.mem x
  elsewhere : ∀ m, AgreeOn fetched m s.mem → ∃ m', run m = .ok (t.withMem m') ∧
    (∀ x, Outside stored x → Memory.read m' x = Memory.read m x) ∧
    (Memory.wf s.mem = true → Memory.wf m = true → AgreeOn stored m' t.mem)

/-- A step that leaves memory alone and depends on the fetched ranges at most, which are its stored ranges if it has any. -/
theorem memFrame_of_unchanged {fetched stored : List (Nat × Nat)} {run : List Host.Cell → Except Fault State} {s t : State}
    (hmem : t.mem = s.mem) (hrun : ∀ m, AgreeOn fetched m s.mem → run m = .ok (t.withMem m))
    (hr : stored = [] ∨ stored = fetched) : MemFrame fetched stored run s t where
  mem_eq _ := hmem
  outside x _ := by rw [hmem]
  elsewhere m hm := by
    refine ⟨m, hrun m hm, fun _ _ => rfl, fun _ _ => ?_⟩
    rw [hmem]
    obtain rfl | rfl := hr
    · simp [AgreeOn]
    · exact hm

/-- A step that accesses no memory. -/
theorem MemBlind.memFrame {f : State → Except Fault State} (hf : MemBlind f) {fetched stored : List (Nat × Nat)}
    {s t : State} (h : f s = .ok t) (hr : stored = [] ∨ stored = fetched) :
    MemFrame fetched stored (fun m => f (s.withMem m)) s t :=
  memFrame_of_unchanged (hf.mem_eq h) (fun m _ => hf.ok h m) hr

/-- A step that reads one byte. -/
theorem memFrame_of_memRead {s t : State} {a : Nat} {g : Byte → State → Except Fault State} (hg : ∀ b, MemBlind (g b))
    (h : (memRead s a).bind (fun b => g b s) = .ok t) :
    MemFrame [(a, 1)] [] (fun m => (memRead (s.withMem m) a).bind fun b => g b (s.withMem m)) s t := by
  obtain ⟨b, hb, h⟩ := exceptBind_ok.mp h
  obtain ⟨ha, rfl⟩ := memRead_ok.mp hb
  refine memFrame_of_unchanged ((hg _).mem_eq h) (fun m hm => ?_) (.inl rfl)
  have hread : Memory.read m a = Memory.read s.mem a := agreeOn_singleton.mp hm a (le_refl a) (by omega)
  exact exceptBind_ok.mpr ⟨_, memRead_ok.mpr ⟨ha, hread.symm⟩, (hg _).ok h m⟩

/-- A step that stores one byte. -/
theorem memFrame_of_memWrite {s t : State} {a : Nat} {v : Byte} {g : State → Except Fault State} (hg : MemBlind g)
    (h : (memWrite s a v).bind g = .ok t) :
    MemFrame [] [(a, 1)] (fun m => (memWrite (s.withMem m) a v).bind g) s t := by
  obtain ⟨u, hu, h⟩ := exceptBind_ok.mp h
  obtain ⟨ha, rfl⟩ := memWrite_ok.mp hu
  have hmem : t.mem = Memory.write s.mem a v := hg.mem_eq h
  have hother (m : List Host.Cell) : ∀ x, Outside [(a, 1)] x → Memory.read (Memory.write m a v) x = Memory.read m x :=
    fun x hx => Memory.read_write_other m (by have := outside_singleton.mp hx; omega)
  refine ⟨by simp, fun x hx => by rw [hmem, hother s.mem x hx], fun m _ => ⟨Memory.write m a v, ?_, hother m, ?_⟩⟩
  · exact exceptBind_ok.mpr ⟨_, memWrite_ok.mpr ⟨ha, rfl⟩, hg.ok h _⟩
  · intro hs hm
    refine agreeOn_singleton.mpr fun x h1 h2 => ?_
    obtain rfl : x = a := by omega
    rw [hmem, Memory.read_write_same hm, Memory.read_write_same hs]

/-- What a transform writes depends on the bytes of its range alone. -/
theorem read_transformMem_congr {x : Transform} {d : Dir} {m m' : List Host.Cell} {a n : Nat} (hm : Memory.wf m = true)
    (hm' : Memory.wf m' = true) (hr : a + n ≤ 4294967296) (h : AgreeOn [(a, n)] m m') :
    AgreeOn [(a, n)] (transformMem x d m a n) (transformMem x d m' a n) := by
  refine agreeOn_singleton.mpr fun y h1 h2 => ?_
  unfold transformMem
  rw [Memory.read_writeRange hm (by simpa using hr), Memory.read_writeRange hm' (by simpa using hr),
    Memory.readRange_congr (agreeOn_singleton.mp h)]
  simp [h1, h2]

/-- A step that transforms a range. -/
theorem memFrame_of_transformRange {s t : State} {d : Dir} {a n : Nat} {g : State → Except Fault State} (hg : MemBlind g)
    (h : (transformRange s d a n).bind g = .ok t) :
    MemFrame [(a, n)] [(a, n)] (fun m => (transformRange (s.withMem m) d a n).bind g) s t := by
  obtain ⟨u, hu, ht⟩ := exceptBind_ok.mp h
  obtain ⟨c, hc, ⟨hn, rfl⟩ | ⟨x, hx, hn, hr, rfl⟩⟩ := transformRange_ok.mp hu
  case inl =>
    refine memFrame_of_unchanged (hg.mem_eq ht) (fun m _ => ?_) (.inr rfl)
    exact exceptBind_ok.mpr ⟨_, transformRange_ok.mpr ⟨c, hc, .inl ⟨hn, rfl⟩⟩, hg.ok ht m⟩
  case inr =>
    have hmem : t.mem = transformMem x d s.mem a n := hg.mem_eq ht
    have hother (m : List Host.Cell) :
        ∀ y, Outside [(a, n)] y → Memory.read (transformMem x d m a n) y = Memory.read m y :=
      fun y hy => read_transformMem_outside m (outside_singleton.mp hy)
    refine ⟨by simp, fun y hy => by rw [hmem, hother s.mem y hy],
      fun m hm => ⟨transformMem x d m a n, ?_, hother m, ?_⟩⟩
    · exact exceptBind_ok.mpr ⟨_, transformRange_ok.mpr ⟨c, hc, .inr ⟨x, hx, hn, hr, rfl⟩⟩, hg.ok ht _⟩
    · intro hs hm'
      rw [hmem]
      exact read_transformMem_congr hm' hs hr hm

/-! ## The step of every operation -/

theorem storedRanges_of_no_store {i : Instr} {s : State} (h : s.portTurn) (h1 : s.pphase ≠ .prMwr)
    (h2 : s.pphase ≠ .prStore) : storedRanges i s = [] := by
  obtain ⟨hf1, hf2, hf3⟩ := h
  unfold storedRanges
  cases hf : s.fphase <;> cases hp : s.pphase <;> simp_all

/-- A step of the port engine in a phase that accesses no memory. -/
theorem portStep_memFrame_of_blind {i : Instr} {w1 w2 : Word} {s t : State} {p : PPhase}
    {f : State → Except Fault State} (hport : s.portTurn) (hp : s.pphase = p) (hne : p ≠ .prMwr ∧ p ≠ .prStore)
    (hstep : ∀ u, u.pphase = p → portStep w1 w2 u = f u) (hf : MemBlind f) (h : portStep w1 w2 s = .ok t) :
    MemFrame (fetchedRanges i s) (storedRanges i s) (fun m => portStep w1 w2 (s.withMem m)) s t := by
  subst hp
  have hrun : (fun m => portStep w1 w2 (s.withMem m)) = fun m => f (s.withMem m) := funext fun m => hstep _ rfl
  rw [hstep s rfl] at h
  rw [hrun]
  exact hf.memFrame h (.inl (storedRanges_of_no_store hport hne.1 hne.2))

theorem portStep_memFrame {i : Instr} {w1 w2 : Word} {s t : State} (hport : s.portTurn) (h : portStep w1 w2 s = .ok t) :
    MemFrame (fetchedRanges i s) (storedRanges i s) (fun m => portStep w1 w2 (s.withMem m)) s t := by
  cases hp : s.pphase with
  | idle => simp [portStep_idle hp] at h
  | pi1 =>
    exact portStep_memFrame_of_blind hport hp (by decide) (fun _ => portStep_pi1)
      (initWrite_memBlind .mode (fun _ => 0#32) (fun _ _ => rfl) .pi2) h
  | pi2 =>
    exact portStep_memFrame_of_blind hport hp (by decide) (fun _ => portStep_pi2)
      (initWrite_memBlind .status (fun _ => 0#32) (fun _ _ => rfl) .pi3) h
  | pi3 =>
    exact portStep_memFrame_of_blind hport hp (by decide) (fun _ => portStep_pi3)
      (initWrite_memBlind .brg (·.pBrg.setWidth 32) (fun _ _ => rfl) .pi4) h
  | pi4 =>
    exact portStep_memFrame_of_blind hport hp (by decide) (fun _ => portStep_pi4)
      (initWrite_memBlind .mode (fun _ => 1#32) (fun _ _ => rfl) .pi5) h
  | pi5 =>
    exact portStep_memFrame_of_blind hport hp (by decide) (fun _ => portStep_pi5) (stepPi5_memBlind w1 w2) h
  | ptPoll =>
    exact portStep_memFrame_of_blind hport hp (by decide) (fun _ => portStep_ptPoll) stepPtPoll_memBlind h
  | ptWrite =>
    exact portStep_memFrame_of_blind hport hp (by decide) (fun _ => portStep_ptWrite) (stepPtWrite_memBlind w1 w2) h
  | prPoll =>
    exact portStep_memFrame_of_blind hport hp (by decide) (fun _ => portStep_prPoll) stepPrPoll_memBlind h
  | prClear =>
    exact portStep_memFrame_of_blind hport hp (by decide) (fun _ => portStep_prClear) stepPrClear_memBlind h
  | prRead =>
    exact portStep_memFrame_of_blind hport hp (by decide) (fun _ => portStep_prRead) (stepPrRead_memBlind w1 w2) h
  | ptFetch =>
    cases hs : s.pSrc with
    | mem a =>
      obtain ⟨hfetch, hstore⟩ := fetchedRanges_ptFetch (i := i) hport hp hs
      have hrun (m : List Host.Cell) := portStep_ptFetch_of_mem (w1 := w1) (w2 := w2) (s := s.withMem m) hp hs
      simp only [hfetch, hstore, hrun]
      exact memFrame_of_memRead (g := fun b u => .ok { u with pD := b, pphase := .ptWrite })
        (fun b => memBlind_ok fun _ _ => rfl) ((hrun s.mem).symm.trans h)
    | len | null => simp [portStep_ptFetch hp, stepPtFetch, hs] at h
  | prMrd =>
    cases he : s.pErr with
    | mem e =>
      obtain ⟨hfetch, hstore⟩ := fetchedRanges_prMrd (i := i) hport hp he
      have hrun (m : List Host.Cell) := portStep_prMrd_of_mem (w1 := w1) (w2 := w2) (s := s.withMem m) hp he
      simp only [hfetch, hstore, hrun]
      exact memFrame_of_memRead (g := fun b u => .ok { u with pD := b, pphase := .prMwr })
        (fun b => memBlind_ok fun _ _ => rfl) ((hrun s.mem).symm.trans h)
    | none | sum => simp [portStep_prMrd hp, stepPrMrd, he] at h
  | prMwr =>
    cases he : s.pErr with
    | mem e =>
      obtain ⟨hstore, hfetch⟩ := storedRanges_prMwr (i := i) hport hp he
      have hrun (m : List Host.Cell) := portStep_prMwr_of_mem (w1 := w1) (w2 := w2) (s := s.withMem m) hp he
      simp only [hfetch, hstore, hrun]
      exact memFrame_of_memWrite (memBlind_ok fun _ _ => rfl) ((hrun s.mem).symm.trans h)
    | none | sum => simp [portStep_prMwr hp, stepPrMwr, he] at h
  | prStore =>
    cases hs : s.pSrc with
    | mem b =>
      obtain ⟨hstore, hfetch⟩ := storedRanges_prStore (i := i) hport hp hs
      have hrun (m : List Host.Cell) := portStep_prStore_of_mem (w1 := w1) (w2 := w2) (s := s.withMem m) hp hs
      simp only [hfetch, hstore, hrun]
      exact memFrame_of_memWrite (advance_memBlind .prPoll w1 w2) ((hrun s.mem).symm.trans h)
    | len | null => simp [portStep_prStore hp, stepPrStore, hs] at h

theorem ranges_ctEncode {i : Instr} {s : State} (h : s.fphase = .ctEncode) :
    fetchedRanges i s = [((operandWords i).1.toNat, (operandWords i).2.toNat)] ∧
      storedRanges i s = [((operandWords i).1.toNat, (operandWords i).2.toNat)] := by
  simp only [fetchedRanges, storedRanges, h, and_self]

theorem ranges_crDecode {i : Instr} {s : State} (h : s.fphase = .crDecode) :
    fetchedRanges i s = [((operandWords i).1.toNat, s.recvLen.toNat)] ∧
      storedRanges i s = [((operandWords i).1.toNat, s.recvLen.toNat)] := by
  simp only [fetchedRanges, storedRanges, h, and_self]

theorem storedRanges_crResult {i : Instr} {s : State} (h : s.fphase = .crResult) : storedRanges i s = [] := by
  simp only [storedRanges, h]

/-- CT_ENCODE, where the configuration is there, transforms the packet. -/
theorem stepCtEncode_of_config {a n : Word} {s : State} {g : ChannelConfig}
    (hg : s.params.configs[s.curCfg.toNat]? = some g) :
    stepCtEncode a n s = (transformRange s .encode a.toNat n.toNat).bind
      fun u => .ok (startTx g.channel .len 4#32 { u with fphase := .ctLen }) := by
  simp only [stepCtEncode, hg]

theorem continueOp_memFrame {i : Instr} {s t : State}
    (h : continueOp (operandWords i).1 (operandWords i).2 s = .ok t) :
    MemFrame (fetchedRanges i s) (storedRanges i s)
      (fun m => continueOp (operandWords i).1 (operandWords i).2 (s.withMem m)) s t := by
  cases hf : s.fphase with
  | ctEncode =>
    obtain ⟨hfetch, hstore⟩ := ranges_ctEncode (i := i) hf
    cases hg : s.params.configs[s.curCfg.toNat]? with
    | none => simp [continueOp_ctEncode hf, stepCtEncode, hg] at h
    | some g =>
      have hrun (m : List Host.Cell) := (continueOp_ctEncode (w1 := (operandWords i).1) (w2 := (operandWords i).2)
        (s := s.withMem m) hf).trans (stepCtEncode_of_config hg)
      simp only [hfetch, hstore, hrun]
      exact memFrame_of_transformRange (memBlind_ok fun _ _ => rfl) ((hrun s.mem).symm.trans h)
  | crDecode =>
    obtain ⟨hfetch, hstore⟩ := ranges_crDecode (i := i) hf
    have hrun (m : List Host.Cell) := continueOp_crDecode (w1 := (operandWords i).1) (w2 := (operandWords i).2)
      (s := s.withMem m) hf
    simp only [hfetch, hstore, hrun]
    exact memFrame_of_transformRange (g := fun u => .ok { u with fphase := .crResult }) (memBlind_ok fun _ _ => rfl)
      ((hrun s.mem).symm.trans h)
  | crResult =>
    have hrun (m : List Host.Cell) := continueOp_crResult (w1 := (operandWords i).1) (w2 := (operandWords i).2)
      (s := s.withMem m) hf
    simp only [hrun]
    exact (memBlind_ok (f := stepCrResult) fun _ _ => rfl).memFrame ((hrun s.mem).symm.trans h)
      (.inl (storedRanges_crResult hf))
  | none | ctLen | ctPayload | crLen | crPayload | crDrain =>
    have hport : s.portTurn := by simp [State.portTurn, hf]
    have hrun (m : List Host.Cell) := continueOp_of_portTurn (w1 := (operandWords i).1) (w2 := (operandWords i).2)
      (s := s.withMem m) hport
    simp only [hrun]
    exact portStep_memFrame hport ((hrun s.mem).symm.trans h)

/-- The step of an operation reads and writes caller memory in the ranges named for it alone. -/
theorem stepOp_memFrame {i : Instr} {s t : State} (h : stepOp i s = .ok t) :
    MemFrame (fetchedRanges i s) (storedRanges i s) (fun m => stepOp i (s.withMem m)) s t := by
  cases ha : s.atStart with
  | true =>
    have hrun (m : List Host.Cell) := stepOp_of_atStart (i := i) (s := s.withMem m) ha
    simp only [hrun]
    exact (memBlind_ok (acceptOp_withMem i)).memFrame ((hrun s.mem).symm.trans h) (.inl (ranges_of_atStart ha).2)
  | false =>
    have hrun (m : List Host.Cell) := stepOp_of_not_atStart (i := i) (s := s.withMem m) ha
    simp only [hrun]
    exact continueOp_memFrame ((hrun s.mem).symm.trans h)

end Sys2Proof.Machine
end

section
/-! SUPPORT. What a step of an operation leaves alone besides caller memory: the parameters, the descriptor, the schedule,
every channel but P_CH's, and of that one the wire and, but for the last step of an init, CHST (R32, R46, R47). -/

namespace Sys2Proof.Machine

/-! ## A register write leaves the wire and CHST alone -/

@[simp] theorem writeReg_wireOut (p : Params) (ch : Channel) (r : Reg) (v : Word) :
    (ch.writeReg p r v).wireOut = ch.wireOut := by
  cases r with
  | mode =>
    simp only [Channel.writeReg, Channel.writeMode]
    split <;> rfl
  | txreg =>
    simp only [Channel.writeReg, Channel.writeTxreg]
    split <;> rfl
  | status | rxreg | brg => rfl

@[simp] theorem writeReg_chst (p : Params) (ch : Channel) (r : Reg) (v : Word) :
    (ch.writeReg p r v).chst = ch.chst := by
  cases r with
  | mode =>
    simp only [Channel.writeReg, Channel.writeMode]
    split <;> rfl
  | txreg =>
    simp only [Channel.writeReg, Channel.writeTxreg]
    split <;> rfl
  | status | rxreg | brg => rfl

/-! ## The frame -/

/-- The lists of channels that a step of an operation can leave: all as they were, or P_CH's replaced by one with the same
wire and the same CHST, which the step PI_5 alone sets to READY. -/
inductive ChansStep (s : State) : List Channel → Prop
  | same : ChansStep s s.chans
  | own {ch ch' : Channel} (hc : s.chan? s.pCh.toNat = some ch) (hw : ch'.wireOut = ch.wireOut)
      (hr : ch'.chst = ch.chst ∨ s.pphase = .pi5 ∧ ch'.chst = .ready) : ChansStep s (s.setChan s.pCh.toNat ch').chans

/-- What a step of an operation leaves alone. -/
structure OpFrame (s t : State) : Prop where
  params : t.params = s.params
  descriptor : t.descriptor = s.descriptor
  pending : t.pending = s.pending
  turn : t.turn = s.turn
  chans : ChansStep s t.chans

/-- The end of a transfer changes none of it. -/
theorem SameButPhase.opFrame {s u t : State} (h : SameButPhase u t) (hu : OpFrame s u) : OpFrame s t where
  params := h.params.trans hu.params
  descriptor := h.descriptor.trans hu.descriptor
  pending := h.pending.trans hu.pending
  turn := h.turn.trans hu.turn
  chans := h.chans ▸ hu.chans

theorem OpFrame.chan?_other {s t : State} (h : OpFrame s t) {c : Nat} (hc : c ≠ s.pCh.toNat) :
    t.chan? c = s.chan? c := by
  generalize hl : t.chans = l at *
  cases hl ▸ h.chans with
  | same => exact chan?_congr hl c
  | own => exact (chan?_congr hl c).trans (chan?_setChan_other _ hc)

/-- A channel before the step and the channel of the same number after it. -/
theorem OpFrame.chan?_rel {s t : State} (h : OpFrame s t) (c : Nat) :
    t.chan? c = s.chan? c ∨
      ∃ ch ch', s.chan? c = some ch ∧ t.chan? c = some ch' ∧ ch'.wireOut = ch.wireOut ∧
        (ch'.chst = ch.chst ∨ s.pphase = .pi5 ∧ s.pCh.toNat = c ∧ ch'.chst = .ready) := by
  by_cases hc : c = s.pCh.toNat
  · subst hc
    generalize hl : t.chans = l at *
    cases hl ▸ h.chans with
    | same => exact .inl (chan?_congr hl _)
    | own hch hw hr =>
      exact .inr ⟨_, _, hch, (chan?_congr hl _).trans (chan?_setChan_same _ hch), hw,
        hr.imp_right fun ⟨hp, hready⟩ => ⟨hp, rfl, hready⟩⟩
  · exact .inl (h.chan?_other hc)

/-! ## Every step of an operation has the frame -/

/-- What the first step of an operation leaves alone: no register access is among its effects (R238). -/
structure AcceptFrame (s t : State) : Prop where
  params : t.params = s.params
  descriptor : t.descriptor = s.descriptor
  pending : t.pending = s.pending
  turn : t.turn = s.turn
  chans : t.chans = s.chans

theorem AcceptFrame.opFrame {s t : State} (h : AcceptFrame s t) : OpFrame s t :=
  ⟨h.params, h.descriptor, h.pending, h.turn, h.chans ▸ .same⟩

theorem acceptInit_frame (c : Nat) (baud : Word) (s : State) : AcceptFrame s (acceptInit c baud s) := by
  unfold acceptInit
  split <;> exact ⟨rfl, rfl, rfl, rfl, rfl⟩

theorem acceptOp_frame (i : Instr) (s : State) : AcceptFrame s (acceptOp i s) := by
  cases i with
  | portInit c baud => exact acceptInit_frame c baud s
  | portTx c a n =>
    simp only [acceptOp, acceptPortTx]
    split
    · exact ⟨rfl, rfl, rfl, rfl, rfl⟩
    · split <;> exact ⟨rfl, rfl, rfl, rfl, rfl⟩
  | portRx c b n e =>
    simp only [acceptOp, acceptPortRx]
    split
    · exact ⟨rfl, rfl, rfl, rfl, rfl⟩
    · split <;> exact ⟨rfl, rfl, rfl, rfl, rfl⟩
  | chInit k baud =>
    simp only [acceptOp, acceptChInit]
    split
    · exact ⟨rfl, rfl, rfl, rfl, rfl⟩
    · exact acceptInit_frame _ baud s
  | chTx k a n =>
    simp only [acceptOp, acceptChTx]
    split
    · exact ⟨rfl, rfl, rfl, rfl, rfl⟩
    · split
      · exact ⟨rfl, rfl, rfl, rfl, rfl⟩
      · split <;> exact ⟨rfl, rfl, rfl, rfl, rfl⟩
  | chRx k b m =>
    simp only [acceptOp, acceptChRx]
    split
    · exact ⟨rfl, rfl, rfl, rfl, rfl⟩
    · split <;> exact ⟨rfl, rfl, rfl, rfl, rfl⟩

theorem mergeErrors_opFrame {s u : State} (e : Byte) (h : OpFrame s u) : OpFrame s (mergeErrors e u) := by
  obtain ⟨hp, hd, hq, ht, hc⟩ := h
  unfold mergeErrors
  split <;> exact ⟨hp, hd, hq, ht, hc⟩

theorem portStep_opFrame {w1 w2 : Word} {s t : State} (h : portStep w1 w2 s = .ok t) : OpFrame s t := by
  have hinit {r : Reg} {v : Word} {next : PPhase} (h : initWrite r v next s = .ok t) : OpFrame s t := by
    obtain ⟨ch, hc, rfl⟩ := initWrite_ok.mp h
    exact ⟨rfl, rfl, rfl, rfl, .own hc (writeReg_wireOut ..) (.inl (writeReg_chst ..))⟩
  cases hp : s.pphase with
  | idle => simp [portStep_idle hp] at h
  | pi1 => exact hinit (portStep_pi1 hp ▸ h)
  | pi2 => exact hinit (portStep_pi2 hp ▸ h)
  | pi3 => exact hinit (portStep_pi3 hp ▸ h)
  | pi4 => exact hinit (portStep_pi4 hp ▸ h)
  | pi5 =>
    rw [portStep_pi5 hp] at h
    obtain ⟨ch, hc, h⟩ := stepPi5_ok.mp h
    exact (finishTransfer_frame h).opFrame ⟨rfl, rfl, rfl, rfl, .own hc rfl (.inr ⟨hp, rfl⟩)⟩
  | ptPoll =>
    rw [portStep_ptPoll hp] at h
    obtain ⟨ch, hc, ⟨-, rfl⟩ | ⟨-, ⟨b, -, rfl⟩ | ⟨-, rfl⟩⟩⟩ := stepPtPoll_ok h <;> exact ⟨rfl, rfl, rfl, rfl, .same⟩
  | ptFetch =>
    rw [portStep_ptFetch hp] at h
    obtain ⟨b, rfl⟩ := stepPtFetch_ok h
    exact ⟨rfl, rfl, rfl, rfl, .same⟩
  | ptWrite =>
    rw [portStep_ptWrite hp] at h
    obtain ⟨ch, hc, h⟩ := stepPtWrite_ok.mp h
    exact (advance_frame h).opFrame ⟨rfl, rfl, rfl, rfl,
      .own hc (writeReg_wireOut s.params ch .txreg _) (.inl (writeReg_chst s.params ch .txreg _))⟩
  | prPoll =>
    rw [portStep_prPoll hp] at h
    obtain ⟨ch, hc, ⟨x, xs, -, rfl⟩ | rfl | rfl⟩ := stepPrPoll_ok h
    · exact mergeErrors_opFrame _ ⟨rfl, rfl, rfl, rfl, .same⟩
    · exact ⟨rfl, rfl, rfl, rfl, .same⟩
    · exact ⟨rfl, rfl, rfl, rfl, .same⟩
  | prClear => exact hinit (r := .status) (portStep_prClear hp ▸ h)
  | prMrd =>
    rw [portStep_prMrd hp] at h
    obtain ⟨b, rfl⟩ := stepPrMrd_ok h
    exact ⟨rfl, rfl, rfl, rfl, .same⟩
  | prMwr =>
    rw [portStep_prMwr hp] at h
    obtain ⟨e, -, -, rfl⟩ := stepPrMwr_ok h
    exact ⟨rfl, rfl, rfl, rfl, .same⟩
  | prRead =>
    rw [portStep_prRead hp] at h
    obtain ⟨ch, d, b, hc, ⟨-, rfl⟩ | ⟨-, l, h⟩ | ⟨-, h⟩⟩ := stepPrRead_ok h
    · exact ⟨rfl, rfl, rfl, rfl, .own hc rfl (.inl rfl)⟩
    · exact (advance_frame h).opFrame ⟨rfl, rfl, rfl, rfl, .own hc rfl (.inl rfl)⟩
    · exact (advance_frame h).opFrame ⟨rfl, rfl, rfl, rfl, .own hc rfl (.inl rfl)⟩
  | prStore =>
    rw [portStep_prStore hp] at h
    obtain ⟨b, -, -, h⟩ := stepPrStore_ok h
    exact (advance_frame h).opFrame ⟨rfl, rfl, rfl, rfl, .same⟩

theorem continueOp_opFrame {w1 w2 : Word} {s t : State} (h : continueOp w1 w2 s = .ok t) : OpFrame s t := by
  cases hf : s.fphase with
  | ctEncode =>
    rw [continueOp_ctEncode hf] at h
    obtain ⟨g, m, -, -, rfl⟩ := stepCtEncode_ok h
    exact ⟨rfl, rfl, rfl, rfl, .same⟩
  | crDecode =>
    rw [continueOp_crDecode hf] at h
    obtain ⟨m, -, rfl⟩ := stepCrDecode_ok h
    exact ⟨rfl, rfl, rfl, rfl, .same⟩
  | crResult =>
    rw [continueOp_crResult hf, Except.ok.injEq] at h
    subst h
    exact ⟨rfl, rfl, rfl, rfl, .same⟩
  | none | ctLen | ctPayload | crLen | crPayload | crDrain =>
    rw [continueOp_of_portTurn (by simp [State.portTurn, hf])] at h
    exact portStep_opFrame h

theorem stepOp_opFrame {i : Instr} {s t : State} (h : stepOp i s = .ok t) : OpFrame s t := by
  cases ha : s.atStart with
  | true =>
    obtain rfl := Except.ok.inj ((stepOp_of_atStart ha).symm.trans h)
    exact (acceptOp_frame i s).opFrame
  | false => exact continueOp_opFrame ((stepOp_of_not_atStart ha).symm.trans h)

/-- Settles O59: the frame of the step, and what it does to memory by its ranges. -/
theorem sequencerFrame : Obligations.SequencerFrame := by
  intro i s t h
  have h := exec_next.mp h
  have hframe := stepOp_opFrame h
  obtain ⟨hmem, hout, helse⟩ := stepOp_memFrame h
  refine ⟨fun c hc => hframe.chan?_other hc, ?start, ?wires, hframe.descriptor, hframe.pending, hframe.turn, hmem, hout,
    fun m hm => ?elsewhere⟩
  case start =>
    intro ha
    refine ⟨?_, hmem (ranges_of_atStart ha).2⟩
    obtain rfl := Except.ok.inj ((stepOp_of_atStart ha).symm.trans h)
    exact (acceptOp_frame i s).chans
  case wires =>
    intro c ch ch' hc hc'
    obtain heq | ⟨x, x', hx, hx', hw, -⟩ := hframe.chan?_rel c
    · rw [heq, hc] at hc'
      rw [Option.some.inj hc']
    · rw [Option.some.inj (hc.symm.trans hx), Option.some.inj (hc'.symm.trans hx')]
      exact hw
  case elsewhere =>
    obtain ⟨m', hrun, hout', hagree⟩ := helse m hm
    exact ⟨m', exec_next.mpr hrun, hout', hagree⟩

end Sys2Proof.Machine
end

section
/-! SUPPORT. What each move can do: the sequencer's turn by the operation it runs, and the moves of the host and of the line
agents by the few fields they change (R31, R32, R95 to R98, R105). -/

namespace Sys2Proof.Machine

/-- Taking a move off the schedule changes the schedule alone. -/
theorem schedule_eq (s : State) : ∃ q n, (schedule s).2 = { s with pending := q, turn := n } := by
  unfold schedule
  split
  case h_1 rest _ => exact ⟨rest, s.turn, rfl⟩
  case h_2 => exact ⟨s.pending, nextTurn s.params.nChannels s.turn, rfl⟩

/-- The sequencer's turn: nothing while the block is not BUSY, and otherwise the decode fault or the step of the operation. -/
theorem sequencerTurn_next {s t : State} (h : sequencerTurn s = .next t) :
    (s.bstat ≠ .busy ∧ t = s) ∨
      (s.bstat = .busy ∧ ∃ c info, t = raiseFault c info s) ∨
      (s.bstat = .busy ∧ ∃ i, decode s.descriptor = .ok i ∧ stepOp i s = .ok t) := by
  by_cases hb : s.bstat = .busy
  · cases hd : decode s.descriptor with
    | error e =>
      rw [sequencerTurn_of_decode_error hb hd, Host.Outcome.next.injEq] at h
      exact .inr (.inl ⟨hb, _, _, h.symm⟩)
    | ok i =>
      rw [sequencerTurn_of_decode_ok hb hd] at h
      exact .inr (.inr ⟨hb, i, rfl, exec_next.mp h⟩)
  · rw [sequencerTurn_of_not_busy hb, Host.Outcome.next.injEq] at h
    exact .inl ⟨hb, h.symm⟩

theorem issue_cases (d : Descriptor) (s : State) :
    (s.bstat = .idle ∧ issue d s = latch d s) ∨ (s.bstat = .busy ∧ issue d s = raiseFault .issueBusy d.w0 s) ∨
      (s.bstat = .faulted ∧ issue d s = s) := by
  unfold issue
  cases s.bstat <;> simp

theorem hostLoad_next {a : Word} {s t : State} (h : hostLoad a s = .next t) :
    t = { s with hostData := (Memory.read s.mem a.toNat).setWidth 32 } := by
  unfold hostLoad at h
  split at h
  · cases h
  · exact (Host.Outcome.next.inj h).symm

theorem hostStore_next {a : Word} {v : Byte} {s t : State} (h : hostStore a v s = .next t) :
    t = { s with mem := Memory.write s.mem a.toNat v } := by
  unfold hostStore at h
  split at h
  · cases h
  · exact (Host.Outcome.next.inj h).symm

theorem lineTx_next {c : Nat} {s t : State} (h : lineTx c s = .next t) :
    ∃ ch, s.chan? c = some ch ∧ t = { s with chans := (s.setChan c ch.lineTx).chans } := by
  unfold lineTx at h
  split at h
  case h_1 ch hc => exact ⟨ch, hc, (Host.Outcome.next.inj h).symm.trans (setChan_eq _ _ _)⟩
  case h_2 => cases h

theorem lineRx_next {c : Nat} {e : RxEntry} {s t : State} (h : lineRx c e s = .next t) :
    ∃ ch, s.chan? c = some ch ∧ t = { s with chans := (s.setChan c (ch.lineRx s.params.rxDepth e)).chans } := by
  unfold lineRx at h
  split at h
  case h_1 ch hc => exact ⟨ch, hc, (Host.Outcome.next.inj h).symm.trans (setChan_eq _ _ _)⟩
  case h_2 => cases h

/-! ## CHST under the moves of the host and of the line agents -/

theorem isReady_iff {s : State} {c : Nat} : s.isReady c = true ↔ ∃ ch, s.chan? c = some ch ∧ ch.chst = .ready := by
  unfold State.isReady
  cases s.chan? c <;> simp

/-- Whether a channel is READY depends on nothing but the list of channels. -/
theorem isReady_congr {s t : State} (h : t.chans = s.chans) (c : Nat) : t.isReady c = s.isReady c := by
  simp only [State.isReady, chan?_congr h c]

/-- Replacing a channel by one with the same CHST makes no channel READY and takes none out of READY. -/
theorem isReady_setChan {s : State} {c : Nat} {ch ch' : Channel} (hc : s.chan? c = some ch) (h : ch'.chst = ch.chst)
    (c' : Nat) : (s.setChan c ch').isReady c' = s.isReady c' := by
  by_cases he : c' = c
  · subst he
    simp only [State.isReady, chan?_setChan_same ch' hc, hc, h]
  · simp only [State.isReady, chan?_setChan_other ch' he]

@[simp] theorem lineTx_chst (ch : Channel) : ch.lineTx.chst = ch.chst := by
  unfold Channel.lineTx
  split
  · split <;> rfl
  · rfl

@[simp] theorem lineRx_chst (d : Nat) (e : RxEntry) (ch : Channel) : (ch.lineRx d e).chst = ch.chst := by
  unfold Channel.lineRx
  split
  · split <;> rfl
  · rfl

/-- What a move of the host, other than ISSUE, or of a line agent leaves alone: the parameters and every CHST. -/
structure AgentFrame (s t : State) : Prop where
  params : t.params = s.params
  isReady : ∀ c, t.isReady c = s.isReady c

/-- The agent moves of R30 that are neither the sequencer's turn nor ISSUE nor a reset. -/
def Move.isAgent : Move → Bool
  | .hostRead _ | .hostLoad _ | .hostStore _ _ | .lineTx _ | .lineRx _ _ _ _ => true
  | .sequencer | .issue _ _ _ _ | .reset _ => false

theorem applyMove_agentFrame {m : Move} {s t : State} (hm : m.isAgent = true) (h : applyMove m s = .next t) :
    AgentFrame s t := by
  cases m with
  | hostRead r =>
    obtain rfl := Host.Outcome.next.inj h
    exact ⟨rfl, isReady_congr rfl⟩
  | hostLoad a =>
    obtain rfl := hostLoad_next h
    exact ⟨rfl, isReady_congr rfl⟩
  | hostStore a v =>
    obtain rfl := hostStore_next h
    exact ⟨rfl, isReady_congr rfl⟩
  | lineTx c =>
    obtain ⟨ch, hc, rfl⟩ := lineTx_next h
    exact ⟨rfl, fun c' => (isReady_congr rfl c').trans (isReady_setChan hc (lineTx_chst ch) c')⟩
  | lineRx c b pe fe =>
    obtain ⟨ch, hc, rfl⟩ := lineRx_next h
    exact ⟨rfl, fun c' => (isReady_congr rfl c').trans (isReady_setChan hc (lineRx_chst _ _ ch) c')⟩
  | sequencer | issue | reset => cases hm

/-! ## The statements -/

theorem applyMove_params {m : Move} {s t : State} (h : applyMove m s = .next t) : t.params = s.params := by
  cases m with
  | sequencer =>
    obtain ⟨-, rfl⟩ | ⟨-, c, info, rfl⟩ | ⟨-, i, -, hi⟩ := sequencerTurn_next h
    · rfl
    · rfl
    · exact (stepOp_opFrame hi).params
  | issue w0 w1 w2 w3 =>
    obtain rfl := Host.Outcome.next.inj h
    obtain ⟨-, he⟩ | ⟨-, he⟩ | ⟨-, he⟩ := issue_cases ⟨w0, w1, w2, w3⟩ s <;> rw [he] <;> rfl
  | reset draws =>
    obtain rfl := Host.Outcome.next.inj h
    rfl
  | hostRead | hostLoad | hostStore | lineTx | lineRx => exact (applyMove_agentFrame rfl h).params

/-- Settles O55: the sequencer's turn has the frame of the operation's step, and no other move writes the parameters. -/
theorem parametersNeverChange : Obligations.ParametersNeverChange := by
  intro s t h
  obtain ⟨q, n, hu⟩ := schedule_eq s
  calc t.params = (schedule s).2.params := applyMove_params h
    _ = s.params := by rw [hu]

/-- The channels that a line agent of channel c leaves. -/
theorem lineAgent_chans {s t : State} {c : Nat} {m : Move}
    (hm : m = .lineTx c ∨ ∃ b pe fe, m = .lineRx c b pe fe) (h : applyMove m s = .next t) :
    ∃ ch rx tx o w, s.chan? c = some ch ∧
      t = { s with
        chans := (s.setChan c { ch with rxfifo := rx, txbuf := tx, oerr := o, wireOut := w }).chans } := by
  obtain rfl | ⟨b, pe, fe, rfl⟩ := hm
  case inl =>
    obtain ⟨ch, hc, rfl⟩ := lineTx_next h
    by_cases he : ch.on = true ∧ ch.txen = true ∧ ch.txbuf ≠ []
    · obtain ⟨hon, htx, hb⟩ := he
      obtain ⟨b, bs, hb⟩ := List.exists_cons_of_ne_nil hb
      exact ⟨ch, ch.rxfifo, bs, ch.oerr, ch.wireOut ++ [b], hc, by rw [lineTx_enabled hon htx hb]⟩
    · exact ⟨ch, ch.rxfifo, ch.txbuf, ch.oerr, ch.wireOut, hc, by rw [lineTx_disabled he]⟩
  case inr =>
    obtain ⟨ch, hc, rfl⟩ := lineRx_next h
    unfold Channel.lineRx
    split
    · split
      · exact ⟨ch, ch.rxfifo ++ [⟨b, pe, fe⟩], ch.txbuf, ch.oerr, ch.wireOut, hc, rfl⟩
      · exact ⟨ch, ch.rxfifo, ch.txbuf, true, ch.wireOut, hc, rfl⟩
    · exact ⟨ch, ch.rxfifo, ch.txbuf, ch.oerr, ch.wireOut, hc, rfl⟩

/-- Settles O58: the line agent replaces its channel by one that differs in those four fields. -/
theorem lineAgentFrame : Obligations.LineAgentFrame := by
  intro s t c m rest hp hm h
  rw [step_of_pending hp] at h
  obtain ⟨ch, rx, tx, o, w, hc, rfl⟩ := lineAgent_chans hm h
  have hc : s.chan? c = some ch := (chan?_congr rfl c).trans hc
  refine ⟨_, rfl, fun c' hne => ?other, fun x hx => ⟨rx, tx, o, w, ?own⟩⟩
  case other =>
    calc _ = ({ s with pending := rest }.setChan c _).chan? c' := chan?_congr rfl c'
      _ = { s with pending := rest }.chan? c' := chan?_setChan_other _ hne
      _ = s.chan? c' := chan?_congr rfl c'
  case own =>
    rw [← Option.some.inj (hc.symm.trans hx)]
    calc _ = ({ s with pending := rest }.setChan c _).chan? c := chan?_congr rfl c
      _ = _ := chan?_setChan_same (s := { s with pending := rest }) _ ((chan?_congr rfl c).trans hc)

end Sys2Proof.Machine
end

section
/-! SUPPORT. CHST over a step of the whole machine: the phases that fit each operation (R44), and that only the last step of an
init sets a channel READY and only a reset takes it out (R46, R47). -/

namespace Sys2Proof.Machine

/-! ## The phases that fit an operation -/

theorem initOk_fphase {s : State} {c : Nat} {baud : Word} (h : initOk s c baud = true) : s.fphase = .none := by
  unfold initOk at h
  split at h
  · cases h
  · simp only [Bool.and_eq_true, decide_eq_true_eq] at h
    exact h.1.1

theorem txOk_isTx {s : State} {c : Nat} {src : Source} {n : Word} (h : txOk s c src n = true) :
    s.pphase.isTx = true := by
  unfold txOk at h
  split at h
  · cases h
  · cases hp : s.pphase <;> simp_all [PPhase.isTx]

theorem rxOk_isRx {s : State} {c : Nat} {sink : Source} {n : Word} {err : ErrTarget} (h : rxOk s c sink n err = true) :
    s.pphase.isRx = true := by
  unfold rxOk at h
  split at h
  · cases h
  · cases hp : s.pphase <;> simp_all [PPhase.isRx]

theorem chTxOk_pphase {s : State} {g : ChannelConfig} {a n : Word} (h : chTxOk s g a n = true) :
    s.pphase = .idle ∨ s.pphase.isTx = true := by
  simp only [chTxOk, Bool.and_eq_true] at h
  obtain ⟨-, h⟩ := h
  split at h
  case h_1 => exact .inl (by simpa using (Bool.and_eq_true_iff.mp h).1)
  case h_2 | h_3 => exact .inr (txOk_isTx h)
  case h_4 => cases h

theorem chRxOk_pphase {s : State} {g : ChannelConfig} {b m : Word} (h : chRxOk s g b m = true) :
    s.pphase = .idle ∨ s.pphase.isRx = true := by
  simp only [chRxOk, Bool.and_eq_true] at h
  obtain ⟨-, h⟩ := h
  split at h
  case h_1 => exact .inr (rxOk_isRx h)
  case h_2 | h_3 => exact .inr (rxOk_isRx (Bool.and_eq_true_iff.mp h).2)
  case h_4 | h_5 => simp_all
  case h_6 => cases h

/-- In PI_5 the operation is one of the two inits, and control does not go back to a framing state machine. -/
theorem opOk_pi5 {s : State} {i : Instr} (h : opOk s i = true) (hp : s.pphase = .pi5) :
    s.fphase = .none ∧ ∃ n x, i = .portInit n x ∨ i = .chInit n x := by
  have hidle : s.pphase ≠ .idle := by simp [hp]
  have htx : s.pphase.isTx ≠ true := by simp [hp, PPhase.isTx]
  have hrx : s.pphase.isRx ≠ true := by simp [hp, PPhase.isRx]
  cases i with
  | portInit c baud => exact ⟨initOk_fphase h, c, baud, .inl rfl⟩
  | portTx c a n => exact absurd (txOk_isTx (Bool.and_eq_true_iff.mp h).2) htx
  | portRx c b n e => exact absurd (rxOk_isRx (Bool.and_eq_true_iff.mp h).2) hrx
  | chInit k baud =>
    cases hg : s.params.configs[k]? with
    | none => simp [opOk, hg] at h
    | some g => exact ⟨initOk_fphase (by simpa [opOk, hg] using h), k, baud, .inr rfl⟩
  | chTx k a n =>
    cases hg : s.params.configs[k]? with
    | none => simp [opOk, hg] at h
    | some g =>
      simp only [opOk, hg, Bool.and_eq_true] at h
      exact ((chTxOk_pphase h.2).elim hidle htx).elim
  | chRx k b m =>
    cases hg : s.params.configs[k]? with
    | none => simp [opOk, hg] at h
    | some g =>
      simp only [opOk, hg, Bool.and_eq_true] at h
      exact ((chRxOk_pphase h.2).elim hidle hrx).elim

/-- Past step 1 the phases fit the operation in D0 to D3. -/
theorem opOk_of_phaseOk {s : State} {i : Instr} (h : phaseOk s = true) (ha : s.atStart = false)
    (hd : decode s.descriptor = .ok i) : opOk s i = true := by
  simpa [phaseOk, ha, hd] using h

/-- Where no framing state machine waits for it, PI_5 completes the operation (R158). -/
theorem stepPi5_bstat {w1 w2 : Word} {s t : State} (hf : s.fphase = .none) (h : stepPi5 w1 w2 s = .ok t) :
    t.bstat = .idle := by
  obtain ⟨ch, -, h⟩ := stepPi5_ok.mp h
  simp only [finishTransfer, hf, Except.ok.injEq] at h
  rw [← h, complete_bstat]

/-! ## CHST over a step of an operation -/

/-- A step of an operation takes no channel out of READY (R47). -/
theorem OpFrame.isReady {s t : State} (h : OpFrame s t) {c : Nat} (hr : s.isReady c = true) : t.isReady c = true := by
  obtain ⟨ch, hc, hready⟩ := isReady_iff.mp hr
  obtain heq | ⟨x, x', hx, hx', -, hst⟩ := h.chan?_rel c
  · exact isReady_iff.mpr ⟨ch, heq.trans hc, hready⟩
  · rw [Option.some.inj (hc.symm.trans hx)] at hready
    exact isReady_iff.mpr ⟨x', hx', hst.elim (·.trans hready) fun h => h.2.2⟩

/-- The only step of an operation that makes a channel READY is PI_5, on channel P_CH. -/
theorem OpFrame.pi5_of_ready {s t : State} (h : OpFrame s t) {c : Nat} (hs : s.isReady c = false)
    (ht : t.isReady c = true) : s.pphase = .pi5 ∧ s.pCh.toNat = c := by
  obtain ⟨ch', hc', hready⟩ := isReady_iff.mp ht
  have hno (ch : Channel) (hc : s.chan? c = some ch) : ch.chst ≠ .ready := fun hr => by
    simp [isReady_iff.mpr ⟨ch, hc, hr⟩] at hs
  obtain heq | ⟨x, x', hx, hx', -, hst⟩ := h.chan?_rel c
  · exact absurd hready (hno ch' (heq.symm.trans hc'))
  · rw [Option.some.inj (hc'.symm.trans hx')] at hready
    obtain heq | ⟨hp, hpc, -⟩ := hst
    · exact absurd (heq.symm.trans hready) (hno x hx)
    · exact ⟨hp, hpc⟩

/-- The step that makes a channel READY, in a state whose phases fit its operation, completes an init on it. -/
theorem stepOp_ready {i : Instr} {s t : State} {c : Nat} (hphase : phaseOk s = true) (hd : decode s.descriptor = .ok i)
    (h : stepOp i s = .ok t) (hs : s.isReady c = false) (ht : t.isReady c = true) :
    s.pphase = .pi5 ∧ s.pCh.toNat = c ∧ t.bstat = .idle ∧ ∃ n x, i = .portInit n x ∨ i = .chInit n x := by
  obtain ⟨hp, hpc⟩ := (stepOp_opFrame h).pi5_of_ready hs ht
  have ha : s.atStart = false := by simp [State.atStart, hp]
  obtain ⟨hf, hi⟩ := opOk_pi5 (opOk_of_phaseOk hphase ha hd) hp
  rw [stepOp_of_not_atStart ha, continueOp_of_portTurn (by simp [State.portTurn, hf]), portStep_pi5 hp] at h
  exact ⟨hp, hpc, stepPi5_bstat hf h, hi⟩

/-! ## CHST over a move -/

/-- After a reset no channel is READY (R67). -/
theorem blockReset_isReady (draws : List Draw) (s : State) (c : Nat) : (blockReset draws s).isReady c = false := by
  by_contra hne
  obtain ⟨ch, hc, hr⟩ := isReady_iff.mp (by simpa using hne)
  cases c with
  | zero => simp at hc
  | succ k =>
    obtain ⟨d, rfl⟩ := mem_blockReset_chans (List.mem_of_getElem? hc)
    cases hr

theorem issue_chans (d : Descriptor) (s : State) : (issue d s).chans = s.chans := by
  obtain ⟨-, he⟩ | ⟨-, he⟩ | ⟨-, he⟩ := issue_cases d s <;> rw [he] <;> rfl

/-- No move but a reset takes a channel out of READY. -/
theorem applyMove_keeps_ready {m : Move} {s t : State} (h : applyMove m s = .next t) (hm : ∀ draws, m ≠ .reset draws)
    {c : Nat} (hr : s.isReady c = true) : t.isReady c = true := by
  cases m with
  | sequencer =>
    obtain ⟨-, rfl⟩ | ⟨-, c', info, rfl⟩ | ⟨-, i, -, hi⟩ := sequencerTurn_next h
    · exact hr
    · exact (isReady_congr rfl c).trans hr
    · exact (stepOp_opFrame hi).isReady hr
  | issue w0 w1 w2 w3 =>
    obtain rfl := Host.Outcome.next.inj h
    exact (isReady_congr (issue_chans _ s) c).trans hr
  | reset draws => exact absurd rfl (hm draws)
  | hostRead | hostLoad | hostStore | lineTx | lineRx => exact ((applyMove_agentFrame rfl h).isReady c).trans hr

/-- The move that makes a channel READY is the sequencer's turn that completes an init on it. -/
theorem applyMove_ready {m : Move} {s t : State} {c : Nat} (hphase : phaseOk s = true) (h : applyMove m s = .next t)
    (hs : s.isReady c = false) (ht : t.isReady c = true) :
    m = .sequencer ∧ s.pphase = .pi5 ∧ s.pCh.toNat = c ∧ t.bstat = .idle ∧
      ∃ n x, decode s.descriptor = .ok (.portInit n x) ∨ decode s.descriptor = .ok (.chInit n x) := by
  have hsame (he : t.isReady c = s.isReady c) : False := by simp [hs, ht] at he
  cases m with
  | sequencer =>
    obtain ⟨-, rfl⟩ | ⟨-, c', info, rfl⟩ | ⟨-, i, hd, hi⟩ := sequencerTurn_next h
    · exact (hsame rfl).elim
    · exact (hsame (isReady_congr rfl c)).elim
    · obtain ⟨hp, hpc, hb, n, x, rfl | rfl⟩ := stepOp_ready hphase hd hi hs ht
      · exact ⟨rfl, hp, hpc, hb, n, x, .inl hd⟩
      · exact ⟨rfl, hp, hpc, hb, n, x, .inr hd⟩
  | issue w0 w1 w2 w3 =>
    obtain rfl := Host.Outcome.next.inj h
    exact (hsame (isReady_congr (issue_chans _ s) c)).elim
  | reset draws =>
    obtain rfl := Host.Outcome.next.inj h
    simp [blockReset_isReady] at ht
  | hostRead | hostLoad | hostStore | lineTx | lineRx => exact (hsame ((applyMove_agentFrame rfl h).isReady c)).elim

/-- Settles O57: taking the move off the schedule changes no CHST, and then it is the move's own doing. -/
theorem readyOnlyByInit : Obligations.ReadyOnlyByInit := by
  intro s t c hinv h
  obtain ⟨-, -, -, hphase⟩ := hinv
  obtain ⟨q, n, hu⟩ := schedule_eq s
  have h : applyMove (schedule s).1 { s with pending := q, turn := n } = .next t := hu ▸ h
  exact ⟨fun hm hr => applyMove_keeps_ready h hm hr,
    fun hs ht => applyMove_ready (s := { s with pending := q, turn := n }) hphase h hs ht⟩

end Sys2Proof.Machine
end

section
/-! SUPPORT. The invariant is not kept by every step: in PT_FETCH it does not say that the transmit buffer has room, and in
PT_WRITE it does (R160). -/

namespace Sys2Proof.Machine

/-- A PORT_TX of two bytes at 0x1000 in PT_FETCH of its first byte, on a READY channel whose transmit buffer of depth 1 is
full. The poll before it never leaves the machine so; the invariant allows it all the same. -/
def fetchOnFullBuffer : State :=
  { latch (encode (.portTx 1 0x1000#32 2#32)) State.reset with
    pphase := .ptFetch
    pCh := 1#8
    pSrc := .mem 0x1000#32
    pLen := 2#32
    chans :=
      [{ Channel.reset with chst := .ready, on := true, txen := true, rxen := true, txbuf := [0x55#8] }, Channel.reset]
    pending := [.sequencer] }

theorem inv_fetchOnFullBuffer : Inv fetchOnFullBuffer := by decide

theorem step_fetchOnFullBuffer :
    step fetchOnFullBuffer = .next { fetchOnFullBuffer with pD := 0#8, pphase := .ptWrite, pending := [] } := by rfl

/-- Refutes O48: from `fetchOnFullBuffer`, a state of the invariant, PT_FETCH goes on to PT_WRITE with the buffer full, which
the invariant excludes. -/
theorem not_stepKeepsInv : ¬ Obligations.StepKeepsInv := by
  intro h
  have hinv : Inv { fetchOnFullBuffer with pD := 0#8, pphase := .ptWrite, pending := [] } :=
    h _ _ inv_fetchOnFullBuffer step_fetchOnFullBuffer
  obtain ⟨-, -, -, hphase⟩ := hinv
  exact absurd hphase (by decide)

end Sys2Proof.Machine
end

section
/-! SUPPORT. The peripheral registers and the line agents (R86 to R97): every bit of STATUS as it reads, the writes of the
registers, and the step of a line agent on its channel. -/

namespace Sys2Proof.Machine

/-! ## The bits of STATUS -/

theorem rxda_iff {ch : Channel} : ch.rxda = true ↔ ch.rxfifo ≠ [] := by
  cases h : ch.rxfifo <;> simp [Channel.rxda, h]

theorem ferr_iff {ch : Channel} : ch.ferr = true ↔ ∃ x xs, ch.rxfifo = x :: xs ∧ x.fe = true := by
  cases h : ch.rxfifo <;> simp [Channel.ferr, h]

theorem perr_iff {ch : Channel} : ch.perr = true ↔ ∃ x xs, ch.rxfifo = x :: xs ∧ x.pe = true := by
  cases h : ch.rxfifo <;> simp [Channel.perr, h]

theorem txbf_iff {d : Nat} {ch : Channel} : ch.txbf d = true ↔ ch.txbuf.length = d := decide_eq_true_iff

/-- STATUS bits 7 to 5 read 0 (R53). -/
theorem statusWord_reserved (d : Nat) (ch : Channel) {k : Nat} (h1 : 5 ≤ k) (h2 : k < 8) :
    (ch.statusWord d).getLsbD k = false := by
  simp only [Channel.statusWord, bit, BitVec.getLsbD_append]
  obtain rfl | rfl | rfl : k = 5 ∨ k = 6 ∨ k = 7 := by omega
  all_goals simp

/-- STATUS bits 31 to 10 read 0 (R53). -/
theorem statusWord_above (d : Nat) (ch : Channel) {k : Nat} (h : 10 ≤ k) : (ch.statusWord d).getLsbD k = false := by
  simp only [Channel.statusWord, bit, BitVec.getLsbD_append]
  repeat rw [if_neg (by omega)]
  simp

/-! ## Register accesses -/

theorem regRead_mode_of_chan {s : State} {c : Nat} {ch : Channel} (h : s.chan? c = some ch) :
    regRead s c .mode = .ok (if ch.on then 1#32 else 0#32, s) := by
  simp only [regRead, h]
  cases ch.on <;> rfl

theorem writeStatus_of_set (ch : Channel) {v : Word} (h : v.getLsbD 1 = true) :
    ch.writeStatus v = { ch with txen := v.getLsbD 8, rxen := v.getLsbD 9 } := by
  simp only [Channel.writeStatus, h, Bool.and_true]

theorem writeStatus_of_clear (ch : Channel) {v : Word} (h : v.getLsbD 1 = false) :
    ch.writeStatus v = { ch with txen := v.getLsbD 8, rxen := v.getLsbD 9, oerr := false } := by
  simp only [Channel.writeStatus, h, Bool.and_false]

/-- A register write that leaves its channel as it was leaves the machine as it was. -/
theorem regWrite_of_same {s : State} {c : Nat} {ch : Channel} {r : Reg} {v : Word} (h : s.chan? c = some ch)
    (hw : ch.writeReg s.params r v = ch) : regWrite s c r v = .ok s := by
  rw [regWrite_of_chan h, hw, setChan_self h]

/-! ## The line agents -/

theorem lineRx_of_room {d : Nat} {e : RxEntry} {ch : Channel} (h : ch.on = true ∧ ch.rxen = true ∧ ch.oerr = false)
    (hr : ch.rxfifo.length < d) : ch.lineRx d e = { ch with rxfifo := ch.rxfifo ++ [e] } := by
  simp [Channel.lineRx, h, hr]

theorem lineRx_of_full {d : Nat} {e : RxEntry} {ch : Channel} (h : ch.on = true ∧ ch.rxen = true ∧ ch.oerr = false)
    (hr : ¬ch.rxfifo.length < d) : ch.lineRx d e = { ch with oerr := true } := by
  simp [Channel.lineRx, h, hr]

theorem lineRx_disabled {d : Nat} {e : RxEntry} {ch : Channel}
    (h : ¬(ch.on = true ∧ ch.rxen = true ∧ ch.oerr = false)) : ch.lineRx d e = ch := if_neg h

@[simp] theorem applyMove_lineTx (c : Nat) (s : State) : applyMove (.lineTx c) s = lineTx c s := rfl

@[simp] theorem applyMove_lineRx (c : Nat) (b : Byte) (pe fe : Bool) (s : State) :
    applyMove (.lineRx c b pe fe) s = lineRx c ⟨b, pe, fe⟩ s := rfl

theorem lineTx_of_chan {s : State} {c : Nat} {ch : Channel} (h : s.chan? c = some ch) :
    lineTx c s = .next (s.setChan c ch.lineTx) := by
  simp only [lineTx, h]

theorem lineRx_of_chan {s : State} {c : Nat} {ch : Channel} (h : s.chan? c = some ch) (e : RxEntry) :
    lineRx c e s = .next (s.setChan c (ch.lineRx s.params.rxDepth e)) := by
  simp only [lineRx, h]

/-! ## The statements -/

/-- Settles O15: each read is an arm of `regRead`, and each bit of STATUS is a field of the channel. -/
theorem registerReads : Obligations.RegisterReads := by
  intro s c ch hc
  refine ⟨regRead_mode_of_chan hc, ?brg, ?txreg, _, regRead_status_of_chan hc, ?bits⟩
  case brg => simp [regRead, hc]
  case txreg => simp [regRead, hc]
  case bits =>
    exact ⟨(Bool.eq_iff_iff.mp (statusWord_rxda _ ch)).trans rxda_iff, statusWord_oerr _ ch,
      (Bool.eq_iff_iff.mp (statusWord_ferr _ ch)).trans ferr_iff,
      (Bool.eq_iff_iff.mp (statusWord_perr _ ch)).trans perr_iff,
      (Bool.eq_iff_iff.mp (statusWord_txbf _ ch)).trans txbf_iff,
      statusWord_reserved _ ch (by omega) (by omega), statusWord_reserved _ ch (by omega) (by omega),
      statusWord_reserved _ ch (by omega) (by omega), statusWord_txen _ ch, statusWord_rxen _ ch,
      fun _ hk => statusWord_above _ ch hk⟩

/-- Settles O16: the write replaces the channel by what `Channel.writeMode` gives, and a disabled peripheral meets neither
guard of the line agent. -/
theorem modeWrite : Obligations.ModeWrite := by
  intro s c ch v hc
  refine ⟨fun hv => ?set, fun hv => ?clear, fun hon => ⟨lineTx_disabled (by simp [hon]), fun e => ?rx⟩⟩
  case set => rw [regWrite_of_chan hc, Channel.writeReg, writeMode_of_set ch hv]
  case clear => rw [regWrite_of_chan hc, Channel.writeReg, writeMode_of_clear ch hv]
  case rx => exact lineRx_disabled (by simp [hon])

/-- Settles O17: the write replaces the channel by what its register's write gives; bit 1 of a STATUS value decides OERR. -/
theorem statusAndDivisorWrites : Obligations.StatusAndDivisorWrites := by
  intro s c ch v hc
  refine ⟨fun hv => ?clear, fun hv => ?set, ?brg, regWrite_of_same hc rfl⟩
  case clear => rw [regWrite_of_chan hc, Channel.writeReg, writeStatus_of_clear ch hv]
  case set => rw [regWrite_of_chan hc, Channel.writeReg, writeStatus_of_set ch hv]
  case brg =>
    have hdiv : v.extractLsb' 0 16 = BitVec.ofNat 16 (v.toNat % 65536) := by
      apply BitVec.eq_of_toNat_eq
      simp
    rw [regWrite_of_chan hc, Channel.writeReg, Channel.writeBrg, hdiv]

/-- Settles O18: a TXREG write meets the guard of `Channel.writeTxreg` or leaves its channel alone, and an RXREG read is by
cases on the FIFO. -/
theorem dataRegisters : Obligations.DataRegisters := by
  intro s c ch v hc
  refine ⟨fun hon hroom => ?room, fun hno => regWrite_of_same hc (writeTxreg_of_no_room v hno), fun x xs hf => ?head,
    fun hf => ⟨_, regRead_rxreg_of_empty hc hf, ?free⟩⟩
  case room =>
    have hbyte : v.extractLsb' 0 8 = BitVec.ofNat 8 (v.toNat % 256) := by
      apply BitVec.eq_of_toNat_eq
      simp
    rw [regWrite_of_chan hc, Channel.writeReg, writeTxreg_of_room v hon hroom, hbyte]
  case head => rw [regRead_rxreg_of_entry hc hf, BitVec.ofNat_toNat]
  case free =>
    have := (Config.emptyRxByte s.draws).isLt
    rw [BitVec.toNat_setWidth]
    omega

/-- Settles O19: the step is `Channel.lineTx` on the channel, which a send that is not enabled leaves as it was. -/
theorem lineTransmitStep : Obligations.LineTransmitStep := by
  intro s c ch rest hp hc
  have hc : { s with pending := rest }.chan? c = some ch := (chan?_congr rfl c).trans hc
  rw [step_of_pending hp, applyMove_lineTx, lineTx_of_chan hc]
  refine ⟨fun b bs hon htx hb => ?sent, fun hno => ?idle⟩
  case sent => rw [lineTx_enabled hon htx hb]
  case idle => rw [lineTx_disabled hno, setChan_self hc]

/-- Settles O20: the step is `Channel.lineRx` on the channel, by whether the receiver takes the byte and has room for it. -/
theorem lineReceiveStep : Obligations.LineReceiveStep := by
  intro s c ch b pe fe rest hp hc
  have hc : { s with pending := rest }.chan? c = some ch := (chan?_congr rfl c).trans hc
  rw [step_of_pending hp, applyMove_lineRx, lineRx_of_chan hc]
  refine ⟨fun hon hrx ho hroom => ?room, fun hon hrx ho hfull => ?full, fun hno => ?lost⟩
  case room => rw [lineRx_of_room ⟨hon, hrx, ho⟩ hroom]
  case full => rw [lineRx_of_full ⟨hon, hrx, ho⟩ hfull]
  case lost => rw [lineRx_disabled hno, setChan_self hc]

end Sys2Proof.Machine
end

section
/-! SUPPORT. The host's accesses to caller memory, which keep off the bytes that the operation in progress names (R31,
R105). -/

namespace Sys2Proof.Machine

/-- The operation's operands name the caller-memory byte at address a (R105). -/
def Names (i : Instr) (a : Nat) : Prop := ∃ g ∈ namedRanges i, g.1 ≤ a ∧ a < g.1 + g.2

theorem busyByte_of_not_busy {s : State} (h : s.bstat ≠ .busy) (a : Nat) : busyByte s a = false := by
  unfold busyByte
  split
  case h_1 hb => exact absurd hb h
  case h_2 | h_3 => rfl

theorem busyByte_of_decode_error {s : State} {e : DecodeError} (hb : s.bstat = .busy) (hd : decode s.descriptor = .error e)
    (a : Nat) : busyByte s a = false := by
  simp only [busyByte, hb, hd]

theorem busyByte_iff {s : State} {i : Instr} (hb : s.bstat = .busy) (hd : decode s.descriptor = .ok i) (a : Nat) :
    busyByte s a = true ↔ Names i a := by
  simp [busyByte, hb, hd, Names]

@[simp] theorem applyMove_hostLoad (a : Word) (s : State) : applyMove (.hostLoad a) s = hostLoad a s := rfl

@[simp] theorem applyMove_hostStore (a : Word) (v : Byte) (s : State) :
    applyMove (.hostStore a v) s = hostStore a v s := rfl

theorem hostLoad_of_busy {s : State} {a : Word} (h : busyByte s a.toNat = true) :
    hostLoad a s = .refused .hostBusyBuffer := if_pos h

theorem hostStore_of_busy {s : State} {a : Word} (v : Byte) (h : busyByte s a.toNat = true) :
    hostStore a v s = .refused .hostBusyBuffer := if_pos h

theorem hostLoad_of_free {s : State} {a : Word} (h : busyByte s a.toNat = false) :
    hostLoad a s = .next { s with hostData := (Memory.read s.mem a.toNat).setWidth 32 } := if_neg (by simp [h])

theorem hostStore_of_free {s : State} {a : Word} (v : Byte) (h : busyByte s a.toNat = false) :
    hostStore a v s = .next { s with mem := Memory.write s.mem a.toNat v } := if_neg (by simp [h])

/-- The one-byte range at an address holds that address alone. -/
theorem toNat_le_antisymm_iff {a e : Word} : (e.toNat ≤ a.toNat ∧ a.toNat ≤ e.toNat) ↔ a = e := by
  rw [← BitVec.toNat_inj]
  omega

theorem names_portRx {c : Nat} {b n e a : Word} :
    Names (.portRx c b n e) a.toNat ↔
      (b ≠ 0#32 ∧ b.toNat ≤ a.toNat ∧ a.toNat < b.toNat + n.toNat) ∨ (e ≠ 0#32 ∧ a = e) := by
  by_cases hb : b = 0#32 <;> by_cases he : e = 0#32 <;> simp [Names, namedRanges, hb, he, toNat_le_antisymm_iff]

/-- Settles O14: a host access is refused where the operation in progress names its byte, and otherwise it is done. -/
theorem hostKeepsOffBusyBuffers : Obligations.HostKeepsOffBusyBuffers := by
  intro s a v rest load store done within
  have hload : step load = hostLoad a { s with pending := rest } := step_of_pending (s := load) rfl
  have hstore : step store = hostStore a v { s with pending := rest } := step_of_pending (s := store) rfl
  have hdone (h : busyByte s a.toNat = false) : done := by
    refine ⟨hload.trans ?_, hstore.trans (hostStore_of_free v h)⟩
    rw [BitVec.ofNat_toNat]
    exact hostLoad_of_free h
  refine ⟨fun hb => hdone (busyByte_of_not_busy hb _), fun e hb hd => hdone (busyByte_of_decode_error hb hd _),
    fun i hb hd => ?_⟩
  intro named
  have hnamed : named ↔ busyByte s a.toNat = true := by
    rw [busyByte_iff hb hd]
    cases i with
    | portRx c b n e => exact names_portRx.symm
    | portInit | portTx | chInit | chTx | chRx => simp [named, within, Names, namedRanges]
  refine ⟨fun hn => ?_, fun hn => hdone (by simpa [hnamed] using hn)⟩
  have hbusy := hnamed.mp hn
  exact ⟨hload.trans (hostLoad_of_busy hbusy), hstore.trans (hostStore_of_busy v hbusy)⟩

end Sys2Proof.Machine
end

section
/-! SUPPORT. The bytes of LENBUF in each byte order (R84). -/

namespace Sys2Proof.Machine

theorem byteOf_eq (l : Word) (lo : Nat) : byteOf l lo = BitVec.ofNat 8 (l.toNat / 2 ^ lo % 256) := by
  apply BitVec.eq_of_toNat_eq
  simp [byteOf, Nat.shiftRight_eq_div_pow]

/-- A word is put together again from its four bytes. -/
theorem append_byteOf (l : Word) : byteOf l 24 ++ byteOf l 16 ++ byteOf l 8 ++ byteOf l 0 = l := by
  apply BitVec.eq_of_getLsbD_eq
  intro i hi
  simp only [byteOf, BitVec.getLsbD_append, BitVec.getLsbD_extractLsb']
  grind

theorem byteOf_append (x y z w : Byte) :
    let l : Word := x ++ y ++ z ++ w
    byteOf l 24 = x ∧ byteOf l 16 = y ∧ byteOf l 8 = z ∧ byteOf l 0 = w := by
  refine ⟨?_, ?_, ?_, ?_⟩ <;>
  · apply BitVec.eq_of_getLsbD_eq
    intro i hi
    simp only [byteOf, BitVec.getLsbD_append, BitVec.getLsbD_extractLsb']
    grind

theorem assemble_serialise (o : ByteOrder) (l : Word) : assemble o (serialise o l) = l := by
  cases o <;> exact append_byteOf l

theorem serialise_assemble (o : ByteOrder) (b : LenBuf) : serialise o (assemble o b) = b := by
  cases o with
  | little =>
    obtain ⟨h3, h2, h1, h0⟩ := byteOf_append b.b3 b.b2 b.b1 b.b0
    simp only [serialise, assemble, h3, h2, h1, h0]
  | big =>
    obtain ⟨h0, h1, h2, h3⟩ := byteOf_append b.b0 b.b1 b.b2 b.b3
    simp only [serialise, assemble, h3, h2, h1, h0]

/-- Settles O24: byte i of LENBUF is `byteOf` at the bit where the order puts it, and appending four bytes and cutting a word
into them undo each other. -/
theorem lengthPrefixByteOrder : Obligations.LengthPrefixByteOrder := by
  intro l b
  refine ⟨fun i hi => ?little, fun i hi => ?big, fun o => assemble_serialise o l, fun o => serialise_assemble o b⟩
  all_goals
    obtain rfl | rfl | rfl | rfl : i = 0 ∨ i = 1 ∨ i = 2 ∨ i = 3 := by omega
    all_goals exact congrArg some (byteOf_eq l _)

end Sys2Proof.Machine
end

section
/-! SUPPORT. What the invariant says of the next step of an operation in progress: the parts of the state that the step needs
are there (R44, R160, R166), and the caller memory that it accesses lies in an admitted range that the operation names (R81,
R83). -/

namespace Sys2Proof.Machine

/-! ## Admission -/

theorem memOk_ne_zero {p : Params} {a n : Nat} (h : memOk p a n = true) : a ≠ 0 := by
  simp only [memOk, Bool.and_eq_true, decide_eq_true_eq] at h
  exact h.1.1

/-- A range that is not empty is admitted where it does not wrap and MEM_OK holds. -/
theorem admitted_of_pos {p : Params} {a n : Nat} (hn : 0 < n) :
    admitted p a n = true ↔ a + n ≤ 4294967296 ∧ memOk p a n = true := by
  simp [admitted, Nat.ne_of_gt hn]

/-- The operation names an admitted range that holds the range r. -/
def InAdmitted (p : Params) (i : Instr) (r : Nat × Nat) : Prop :=
  ∃ g ∈ namedRanges i, admitted p g.1 g.2 = true ∧ g.1 ≤ r.1 ∧ r.1 + r.2 ≤ g.1 + g.2

theorem InAdmitted.le {p : Params} {i : Instr} {r : Nat × Nat} (h : InAdmitted p i r) (hr : 0 < r.2) :
    r.1 + r.2 ≤ 4294967296 := by
  obtain ⟨g, -, hadm, h1, h2⟩ := h
  obtain ⟨hg, -⟩ := (admitted_of_pos (by omega)).mp hadm
  omega

theorem InAdmitted.byte_lt {p : Params} {i : Instr} {a : Nat} (h : InAdmitted p i (a, 1)) : a < 4294967296 :=
  h.le Nat.one_pos

/-- A part from its start of a range that the operation names. -/
theorem inAdmitted_part {p : Params} {i : Instr} {a m : Word} (hnamed : (a.toNat, m.toNat) ∈ namedRanges i)
    (hadm : admitted p a.toNat m.toNat = true) {n : Word} (hn : n ≤ m) : InAdmitted p i (a.toNat, n.toNat) := by
  have := BitVec.le_def.mp hn
  exact ⟨_, hnamed, hadm, le_refl _, by dsimp only; omega⟩

/-- One byte of a transfer into or out of a part of a range that the operation names. -/
theorem inAdmitted_byte {p : Params} {i : Instr} {a m : Word} (hnamed : (a.toNat, m.toNat) ∈ namedRanges i)
    (hadm : admitted p a.toNat m.toNat = true) {n idx : Word} (hn : n ≤ m) (hidx : idx < n) :
    InAdmitted p i (byteAddr a idx, 1) := by
  have h1 := BitVec.le_def.mp hn
  have h2 := BitVec.lt_def.mp hidx
  exact ⟨_, hnamed, hadm, by simp [byteAddr], by dsimp only [byteAddr]; omega⟩

/-- What the framing layer's step 1 checks admits the range also where it is empty. -/
theorem admitted_of_checked {p : Params} {a n : Word}
    (h : (decide (n = 0#32) || (decide (a ≠ 0#32) && admitted p a.toNat n.toNat)) = true) :
    admitted p a.toNat n.toNat = true := by
  simp only [Bool.or_eq_true, Bool.and_eq_true, decide_eq_true_eq] at h
  obtain rfl | ⟨-, h⟩ := h
  · exact admitted_zero p a.toNat
  · exact h

/-! ## A step of the port engine that a legal state allows -/

/-- The end of a transfer finds what it returns control to: no framing state machine, or one whose configuration is there. -/
def CanFinish (s : State) : Prop := s.portTurn ∧ (s.fphase = .none ∨ ∃ g, s.params.configs[s.curCfg.toNat]? = some g)

/-- What the next step of the port engine, which is operation i's, needs. -/
structure PortReady (i : Instr) (s : State) : Prop where
  canFinish : CanFinish s
  chan : ∃ ch, s.chan? s.pCh.toNat = some ch
  active : s.pphase ≠ .idle
  lenIdx : s.pphase = .ptPoll ∨ s.pphase = .prRead → s.pSrc = .len → s.pIdx.toNat < 4
  buffer : s.pphase = .ptFetch ∨ s.pphase = .prStore →
    ∃ a, s.pSrc = .mem a ∧ InAdmitted s.params i (byteAddr a s.pIdx, 1)
  errByte : s.pphase = .prMrd ∨ s.pphase = .prMwr → ∃ e, s.pErr = .mem e ∧ InAdmitted s.params i (e.toNat, 1)

theorem initOk_portReady {i : Instr} {s : State} {c : Nat} {baud : Word} (h : initOk s c baud = true) :
    PortReady i s := by
  have hf := initOk_fphase h
  unfold initOk at h
  split at h
  · cases h
  case h_2 ch hc =>
    simp only [Bool.and_eq_true, decide_eq_true_eq] at h
    obtain ⟨⟨-, rfl, -⟩, hphase⟩ := h
    have hinit : s.pphase.isInit = true := by
      cases hp : s.pphase <;> simp_all [PPhase.isInit]
    refine ⟨⟨by simp [State.portTurn, hf], .inl hf⟩, ⟨ch, hc⟩, fun hp => ?active, fun hp => ?lenIdx, fun hp => ?buffer,
      fun hp => ?errByte⟩
    case active => simp [hp, PPhase.isInit] at hinit
    case lenIdx | buffer | errByte => obtain hp | hp := hp <;> simp [hp, PPhase.isInit] at hinit

/-- LENBUF is a source or sink of four bytes. -/
theorem lenIdx_lt {receive : Bool} {n idx : Word} (h : sourceOk receive .len n = true) (hidx : idx < n) :
    idx.toNat < 4 := by
  obtain rfl : n = 4#32 := by simpa [sourceOk] using h
  simpa using BitVec.lt_def.mp hidx

theorem txOk_portReady {i : Instr} {s : State} {c : Nat} {src : Source} {n : Word} (hfin : CanFinish s)
    (h : txOk s c src n = true)
    (hsrc : ∀ a, src = .mem a → ∀ idx, idx < n → InAdmitted s.params i (byteAddr a idx, 1)) : PortReady i s := by
  unfold txOk at h
  split at h
  · cases h
  case h_2 ch hc =>
    simp only [Bool.and_eq_true, decide_eq_true_eq] at h
    obtain ⟨⟨⟨rfl, -, rfl, rfl, hidx⟩, hok⟩, hphase⟩ := h
    refine ⟨hfin, ⟨ch, hc⟩, fun hp => ?active, fun _ hs => lenIdx_lt (hs ▸ hok) hidx, fun hp => ?buffer,
      fun hp => ?errByte⟩
    case active => simp [hp] at hphase
    case buffer =>
      cases hs : s.pSrc with
      | mem a => exact ⟨a, rfl, hsrc a hs _ hidx⟩
      | null => simp [hs, sourceOk] at hok
      | len => obtain hp | hp := hp <;> simp [hp, hs] at hphase
    case errByte => obtain hp | hp := hp <;> simp [hp] at hphase

theorem rxOk_portReady {i : Instr} {s : State} {c : Nat} {sink : Source} {n : Word} {err : ErrTarget}
    (hfin : CanFinish s) (h : rxOk s c sink n err = true)
    (hsink : ∀ b, sink = .mem b → ∀ idx, idx < n → InAdmitted s.params i (byteAddr b idx, 1))
    (herr : ∀ e, err = .mem e → InAdmitted s.params i (e.toNat, 1)) : PortReady i s := by
  unfold rxOk at h
  split at h
  · cases h
  case h_2 ch hc =>
    simp only [Bool.and_eq_true, decide_eq_true_eq] at h
    obtain ⟨⟨⟨⟨rfl, -, rfl, rfl, hidx, rfl⟩, hok⟩, -⟩, hphase⟩ := h
    refine ⟨hfin, ⟨ch, hc⟩, fun hp => ?active, fun _ hs => lenIdx_lt (hs ▸ hok) hidx, fun hp => ?buffer,
      fun hp => ?errByte⟩
    case active => simp [hp] at hphase
    case buffer =>
      cases hs : s.pSrc with
      | mem b => exact ⟨b, rfl, hsink b hs _ hidx⟩
      | len | null => obtain hp | hp := hp <;> simp [hp, hs] at hphase
    case errByte =>
      cases he : s.pErr with
      | mem e => exact ⟨e, rfl, herr e he⟩
      | none | sum => obtain hp | hp := hp <;> simp [hp, he] at hphase

/-! ## The next step of an operation that a legal state allows -/

/-- The step past step 1 of operation i that the two phases name, with what it needs. -/
inductive LegalStep (i : Instr) (s : State) : Prop
  | port (h : PortReady i s)
  | encode {g : ChannelConfig} (hf : s.fphase = .ctEncode) (hp : s.pphase = .idle)
      (hg : s.params.configs[s.curCfg.toNat]? = some g)
      (hr : InAdmitted s.params i ((operandWords i).1.toNat, (operandWords i).2.toNat))
  | decode {g : ChannelConfig} (hf : s.fphase = .crDecode) (hp : s.pphase = .idle)
      (hg : s.params.configs[s.curCfg.toNat]? = some g)
      (hr : InAdmitted s.params i ((operandWords i).1.toNat, s.recvLen.toNat))
  | result (hf : s.fphase = .crResult) (hp : s.pphase = .idle)

theorem portTx_legalStep {s : State} {c : Nat} {a n : Word} (h : opOk s (.portTx c a n) = true) :
    LegalStep (.portTx c a n) s := by
  simp only [opOk, Bool.and_eq_true, decide_eq_true_eq] at h
  obtain ⟨⟨hf, hadm⟩, htx⟩ := h
  refine .port (txOk_portReady ⟨by simp [State.portTurn, hf], .inl hf⟩ htx fun x hx idx hidx => ?_)
  cases hx
  exact inAdmitted_byte (by simp [namedRanges]) hadm (BitVec.le_refl n) hidx

theorem portRx_legalStep {s : State} {c : Nat} {b n e : Word} (h : opOk s (.portRx c b n e) = true) :
    LegalStep (.portRx c b n e) s := by
  simp only [opOk, Bool.and_eq_true, Bool.or_eq_true, decide_eq_true_eq] at h
  obtain ⟨⟨⟨hf, hb⟩, he⟩, hrx⟩ := h
  refine .port (rxOk_portReady ⟨by simp [State.portTurn, hf], .inl hf⟩ hrx (fun x hx idx hidx => ?buffer)
    fun x hx => ?errByte)
  case buffer =>
    by_cases hb0 : b = 0#32
    · simp [sinkOf, hb0] at hx
    · obtain rfl : b = x := by simpa [sinkOf, hb0] using hx
      exact inAdmitted_byte (by simp [namedRanges, hb0]) (hb.resolve_left hb0) (BitVec.le_refl n) hidx
  case errByte =>
    by_cases he0 : e = 0#32
    · simp [errTargetOf, he0] at hx
    · obtain rfl : e = x := by simpa [errTargetOf, he0] using hx
      exact ⟨(e.toNat, 1), by simp [namedRanges, he0], he.resolve_left he0, le_refl _, le_refl _⟩

theorem chTx_legalStep {s : State} {k : Nat} {a n : Word} (h : opOk s (.chTx k a n) = true) :
    LegalStep (.chTx k a n) s := by
  simp only [opOk] at h
  split at h
  case h_2 => cases h
  case h_1 g hg =>
    simp only [Bool.and_eq_true, decide_eq_true_eq, chTxOk] at h
    obtain ⟨rfl, ⟨⟨-, hchecked⟩, -⟩, hphase⟩ := h
    have hadm := admitted_of_checked hchecked
    have hnamed : (a.toNat, n.toNat) ∈ namedRanges (.chTx s.curCfg.toNat a n) := by simp [namedRanges]
    split at hphase
    case h_1 hf =>
      exact .encode hf (by simpa using (Bool.and_eq_true_iff.mp hphase).1) hg
        (inAdmitted_part hnamed hadm (BitVec.le_refl n))
    case h_2 hf =>
      exact .port (txOk_portReady ⟨by simp [State.portTurn, hf], .inr ⟨g, hg⟩⟩ hphase fun x hx => by cases hx)
    case h_3 hf =>
      refine .port (txOk_portReady ⟨by simp [State.portTurn, hf], .inr ⟨g, hg⟩⟩ hphase fun x hx idx hidx => ?_)
      cases hx
      exact inAdmitted_byte hnamed hadm (BitVec.le_refl n) hidx
    case h_4 => cases hphase

/-- A CH_RX stores no more than its buffer holds (R203). -/
theorem lengthsOk_recvLen_le {s : State} {m : Word} (h : lengthsOk s m = true) : s.recvLen ≤ m := by
  simp only [lengthsOk, decide_eq_true_eq] at h
  rw [h.2, minWord]
  split
  · assumption
  · exact BitVec.le_refl m

theorem chRx_legalStep {s : State} {k : Nat} {b m : Word} (h : opOk s (.chRx k b m) = true) :
    LegalStep (.chRx k b m) s := by
  simp only [opOk] at h
  split at h
  case h_2 => cases h
  case h_1 g hg =>
    simp only [Bool.and_eq_true, decide_eq_true_eq, chRxOk] at h
    obtain ⟨rfl, ⟨-, hchecked⟩, hphase⟩ := h
    have hadm := admitted_of_checked hchecked
    have hnamed : (b.toNat, m.toNat) ∈ namedRanges (.chRx s.curCfg.toNat b m) := by simp [namedRanges]
    split at hphase
    case h_1 hf =>
      exact .port (rxOk_portReady ⟨by simp [State.portTurn, hf], .inr ⟨g, hg⟩⟩ hphase (fun x hx => by cases hx)
        fun x hx => by cases hx)
    case h_2 hf =>
      obtain ⟨hlen, hrx⟩ := Bool.and_eq_true_iff.mp hphase
      refine .port (rxOk_portReady ⟨by simp [State.portTurn, hf], .inr ⟨g, hg⟩⟩ hrx (fun x hx idx hidx => ?_)
        fun x hx => by cases hx)
      cases hx
      exact inAdmitted_byte hnamed hadm (lengthsOk_recvLen_le hlen) hidx
    case h_3 hf =>
      obtain ⟨-, hrx⟩ := Bool.and_eq_true_iff.mp hphase
      exact .port (rxOk_portReady ⟨by simp [State.portTurn, hf], .inr ⟨g, hg⟩⟩ hrx (fun x hx => by cases hx)
        fun x hx => by cases hx)
    case h_4 hf =>
      simp only [Bool.and_eq_true, decide_eq_true_eq] at hphase
      obtain ⟨⟨hlen, hp⟩, -⟩ := hphase
      exact .decode hf hp hg (inAdmitted_part hnamed hadm (lengthsOk_recvLen_le hlen))
    case h_5 hf =>
      simp only [Bool.and_eq_true, decide_eq_true_eq] at hphase
      exact .result hf hphase.2
    case h_6 => cases hphase

/-- What the invariant says of the phases of an operation gives the next step what it needs. -/
theorem opOk_legalStep {i : Instr} {s : State} (h : opOk s i = true) : LegalStep i s := by
  cases i with
  | portInit c baud => exact .port (initOk_portReady h)
  | portTx c a n => exact portTx_legalStep h
  | portRx c b n e => exact portRx_legalStep h
  | chInit k baud =>
    simp only [opOk] at h
    split at h
    · exact .port (initOk_portReady h)
    · cases h
  | chTx k a n => exact chTx_legalStep h
  | chRx k b m => exact chRx_legalStep h

/-! ## The ranges that a legal step accesses -/

/-- In the other phases the port engine accesses no caller memory. -/
theorem ranges_of_no_access {i : Instr} {s : State} (h : s.portTurn) (h1 : s.pphase ≠ .ptFetch) (h2 : s.pphase ≠ .prMrd)
    (h3 : s.pphase ≠ .prMwr) (h4 : s.pphase ≠ .prStore) : fetchedRanges i s = [] ∧ storedRanges i s = [] := by
  refine ⟨?_, storedRanges_of_no_store h h3 h4⟩
  obtain ⟨hf1, hf2, hf3⟩ := h
  unfold fetchedRanges
  cases hf : s.fphase <;> cases hp : s.pphase <;> simp_all

theorem PortReady.inAdmitted {i : Instr} {s : State} (h : PortReady i s) {r : Nat × Nat}
    (hr : r ∈ fetchedRanges i s ∨ r ∈ storedRanges i s) : InAdmitted s.params i r := by
  have hport := h.canFinish.1
  cases hp : s.pphase with
  | ptFetch =>
    obtain ⟨a, hs, hadm⟩ := h.buffer (.inl hp)
    obtain rfl : r = _ := by simpa [fetchedRanges_ptFetch hport hp hs] using hr
    exact hadm
  | prStore =>
    obtain ⟨b, hs, hadm⟩ := h.buffer (.inr hp)
    obtain rfl : r = _ := by simpa [storedRanges_prStore hport hp hs] using hr
    exact hadm
  | prMrd =>
    obtain ⟨e, he, hadm⟩ := h.errByte (.inl hp)
    obtain rfl : r = _ := by simpa [fetchedRanges_prMrd hport hp he] using hr
    exact hadm
  | prMwr =>
    obtain ⟨e, he, hadm⟩ := h.errByte (.inr hp)
    obtain rfl : r = _ := by simpa [storedRanges_prMwr hport hp he] using hr
    exact hadm
  | idle | pi1 | pi2 | pi3 | pi4 | pi5 | ptPoll | ptWrite | prPoll | prClear | prRead =>
    simp [ranges_of_no_access hport, hp] at hr

theorem LegalStep.inAdmitted {i : Instr} {s : State} (h : LegalStep i s) {r : Nat × Nat}
    (hr : r ∈ fetchedRanges i s ∨ r ∈ storedRanges i s) : InAdmitted s.params i r := by
  cases h with
  | port h => exact h.inAdmitted hr
  | encode hf hp hg hadm =>
    obtain rfl : r = _ := by simpa [ranges_ctEncode hf] using hr
    exact hadm
  | decode hf hp hg hadm =>
    obtain rfl : r = _ := by simpa [ranges_crDecode hf] using hr
    exact hadm
  | result hf hp => simp [fetchedRanges, storedRanges, hf] at hr

/-- Settles O21: step 1 accesses no caller memory, and what the invariant says of the phases past it puts every range that
the step accesses inside one that step 1 admitted. -/
theorem admittedRanges : Obligations.AdmittedRanges := by
  refine ⟨fun p a n => ⟨admitted_zero p a, fun hn => admitted_of_pos hn, fun hn hadm i hi => ?bytes⟩,
    fun s i hinv _ hd r hr => ?ranges⟩
  case bytes =>
    obtain ⟨hle, hok⟩ := (admitted_of_pos hn).mp hadm
    have := memOk_ne_zero hok
    omega
  case ranges =>
    obtain ⟨-, -, -, hphase⟩ := hinv
    cases ha : s.atStart with
    | true => simp [ranges_of_atStart ha] at hr
    | false => exact (opOk_legalStep (opOk_of_phaseOk hphase ha hd)).inAdmitted hr

end Sys2Proof.Machine
end

section
/-! SUPPORT. No stop of the model's own is reached from a legal state: each step function answers a next state where it has
what it needs (R83, R130, R160, R166). -/

namespace Sys2Proof.Machine

/-! ## The end of a transfer -/

theorem lenBuf_get?_of_lt (l : LenBuf) {k : Nat} (h : k < 4) : ∃ b, l.get? k = some b := by
  obtain rfl | rfl | rfl | rfl : k = 0 ∨ k = 1 ∨ k = 2 ∨ k = 3 := by omega
  all_goals exact ⟨_, rfl⟩

theorem lenBuf_set?_of_lt (l : LenBuf) {k : Nat} (v : Byte) (h : k < 4) : ∃ l', l.set? k v = some l' := by
  obtain rfl | rfl | rfl | rfl : k = 0 ∨ k = 1 ∨ k = 2 ∨ k = 3 := by omega
  all_goals exact ⟨_, rfl⟩

theorem afterDrain_answers {s : State} {g : ChannelConfig} (hg : s.params.configs[s.curCfg.toNat]? = some g) :
    ∃ t, afterDrain s = .ok t := by
  simp only [afterDrain, hg]
  exact ⟨_, rfl⟩

theorem afterPayload_answers {s : State} {g : ChannelConfig} (hg : s.params.configs[s.curCfg.toNat]? = some g) :
    ∃ t, afterPayload s = .ok t := by
  unfold afterPayload
  split
  · exact ⟨_, rfl⟩
  · exact afterDrain_answers hg

theorem afterPrefix_answers {b m : Word} {s : State} {g : ChannelConfig}
    (hg : s.params.configs[s.curCfg.toNat]? = some g) : ∃ t, afterPrefix b m s = .ok t := by
  unfold afterPrefix
  dsimp only
  split
  · exact ⟨_, rfl⟩
  · exact afterPayload_answers hg

theorem afterLength_answers (a n : Word) (s : State) : ∃ t, afterLength a n s = .ok t := by
  unfold afterLength
  split <;> exact ⟨_, rfl⟩

theorem finishTransfer_answers {w1 w2 : Word} {s : State} (h : CanFinish s) : ∃ t, finishTransfer w1 w2 s = .ok t := by
  obtain ⟨⟨h1, h2, h3⟩, hg⟩ := h
  cases hf : s.fphase with
  | none | ctPayload => simp only [finishTransfer, hf]; exact ⟨_, rfl⟩
  | ctLen => simp only [finishTransfer, hf]; exact afterLength_answers w1 w2 s
  | crLen =>
    obtain ⟨g, hg⟩ := hg.resolve_left (by simp [hf])
    simp only [finishTransfer, hf]
    exact afterPrefix_answers hg
  | crPayload =>
    obtain ⟨g, hg⟩ := hg.resolve_left (by simp [hf])
    simp only [finishTransfer, hf]
    exact afterPayload_answers hg
  | crDrain =>
    obtain ⟨g, hg⟩ := hg.resolve_left (by simp [hf])
    simp only [finishTransfer, hf]
    exact afterDrain_answers hg
  | ctEncode | crDecode | crResult => contradiction

theorem advance_answers {poll : PPhase} {w1 w2 : Word} {s : State} (h : CanFinish s) :
    ∃ t, advance poll w1 w2 s = .ok t := by
  unfold advance
  dsimp only
  split
  · exact finishTransfer_answers h
  · exact ⟨_, rfl⟩

/-! ## The steps of the port engine -/

theorem exceptBind_of_ok {ε α β : Type} {x : Except ε α} {f : α → Except ε β} {a : α} (h : x = .ok a) :
    x.bind f = f a := by
  rw [h]
  rfl

theorem stepPtPoll_answers {s : State} {ch : Channel} (hc : s.chan? s.pCh.toNat = some ch)
    (hlen : s.pSrc = .len → s.pIdx.toNat < 4) : ∃ t, stepPtPoll s = .ok t := by
  unfold stepPtPoll
  rw [exceptBind_of_ok (regRead_status_of_chan hc)]
  dsimp only
  split
  · exact ⟨_, rfl⟩
  · split
    case h_1 hs =>
      obtain ⟨b, hb⟩ := lenBuf_get?_of_lt s.lenBuf (hlen hs)
      simp only [hb]
      exact ⟨_, rfl⟩
    case h_2 | h_3 => exact ⟨_, rfl⟩

theorem stepPrPoll_answers {s : State} {ch : Channel} (hc : s.chan? s.pCh.toNat = some ch) :
    ∃ t, stepPrPoll s = .ok t := by
  unfold stepPrPoll
  rw [exceptBind_of_ok (regRead_status_of_chan hc)]
  dsimp only
  split
  · exact ⟨_, rfl⟩
  · split <;> exact ⟨_, rfl⟩

/-- A read of RXREG of a channel that exists answers. -/
theorem regRead_rxreg_answers {s : State} {c : Nat} {ch : Channel} (hc : s.chan? c = some ch) :
    ∃ v u, regRead s c .rxreg = .ok (v, u) := by
  cases hf : ch.rxfifo with
  | nil => exact ⟨_, _, regRead_rxreg_of_empty hc hf⟩
  | cons x xs => exact ⟨_, _, regRead_rxreg_of_entry hc hf⟩

theorem stepPrRead_answers {w1 w2 : Word} {s : State} {ch : Channel} (hc : s.chan? s.pCh.toNat = some ch)
    (hfin : CanFinish s) (hlen : s.pSrc = .len → s.pIdx.toNat < 4) : ∃ t, stepPrRead w1 w2 s = .ok t := by
  obtain ⟨v, u, hr⟩ := regRead_rxreg_answers hc
  obtain ⟨_, d, -, rfl⟩ := regRead_rxreg_ok hr
  unfold stepPrRead
  rw [exceptBind_of_ok hr]
  dsimp only
  split
  case h_1 => exact ⟨_, rfl⟩
  case h_2 hs =>
    obtain ⟨l, hl⟩ := lenBuf_set?_of_lt s.lenBuf (v.extractLsb' 0 8) (hlen hs)
    simp only [hl]
    exact advance_answers hfin
  case h_3 => exact advance_answers hfin

theorem initWrite_answers {r : Reg} {v : Word} {next : PPhase} {s : State} {ch : Channel}
    (hc : s.chan? s.pCh.toNat = some ch) : ∃ t, initWrite r v next s = .ok t :=
  ⟨_, initWrite_ok.mpr ⟨ch, hc, rfl⟩⟩

theorem portStep_answers {i : Instr} {w1 w2 : Word} {s : State} (h : PortReady i s) : ∃ t, portStep w1 w2 s = .ok t := by
  obtain ⟨ch, hc⟩ := h.chan
  have hfin := h.canFinish
  cases hp : s.pphase with
  | idle => exact absurd hp h.active
  | pi1 => exact portStep_pi1 hp ▸ initWrite_answers hc
  | pi2 => exact portStep_pi2 hp ▸ initWrite_answers hc
  | pi3 => exact portStep_pi3 hp ▸ initWrite_answers hc
  | pi4 => exact portStep_pi4 hp ▸ initWrite_answers hc
  | pi5 =>
    rw [portStep_pi5 hp]
    simp only [stepPi5_ok]
    obtain ⟨t, ht⟩ := finishTransfer_answers (w1 := w1) (w2 := w2) (s := { s with
      chans := (s.setChan s.pCh.toNat { ch.writeStatus 0x00000300#32 with chst := .ready }).chans
      pphase := .idle }) hfin
    exact ⟨t, ch, hc, ht⟩
  | ptPoll => exact portStep_ptPoll hp ▸ stepPtPoll_answers hc (h.lenIdx (.inl hp))
  | ptFetch =>
    obtain ⟨a, hs, hadm⟩ := h.buffer (.inl hp)
    rw [portStep_ptFetch_of_mem hp hs, exceptBind_of_ok (memRead_of_lt hadm.byte_lt)]
    exact ⟨_, rfl⟩
  | ptWrite =>
    rw [portStep_ptWrite hp, stepPtWrite, exceptBind_of_ok (regWrite_of_chan hc .txreg _), setChan_eq]
    exact advance_answers hfin
  | prPoll => exact portStep_prPoll hp ▸ stepPrPoll_answers hc
  | prClear => exact portStep_prClear hp ▸ initWrite_answers (next := .prPoll) hc
  | prMrd =>
    obtain ⟨e, he, hadm⟩ := h.errByte (.inl hp)
    rw [portStep_prMrd_of_mem hp he, exceptBind_of_ok (memRead_of_lt hadm.byte_lt)]
    exact ⟨_, rfl⟩
  | prMwr =>
    obtain ⟨e, he, hadm⟩ := h.errByte (.inr hp)
    rw [portStep_prMwr_of_mem hp he, exceptBind_of_ok (memWrite_of_lt _ hadm.byte_lt)]
    exact ⟨_, rfl⟩
  | prRead => exact portStep_prRead hp ▸ stepPrRead_answers hc hfin (h.lenIdx (.inr hp))
  | prStore =>
    obtain ⟨b, hs, hadm⟩ := h.buffer (.inr hp)
    rw [portStep_prStore_of_mem hp hs, exceptBind_of_ok (memWrite_of_lt _ hadm.byte_lt)]
    exact advance_answers hfin

/-! ## Any step and any move -/

/-- A transform over a range that lies in an admitted one answers. -/
theorem transformRange_answers {i : Instr} {s : State} {d : Dir} {r : Nat × Nat} {g : ChannelConfig}
    (hg : s.params.configs[s.curCfg.toNat]? = some g) (hr : InAdmitted s.params i r) :
    ∃ t, transformRange s d r.1 r.2 = .ok t := by
  cases ht : g.transform with
  | none => exact ⟨s, transformRange_ok.mpr ⟨g, hg, .inl ⟨.inl ht, rfl⟩⟩⟩
  | some x =>
    by_cases hn : r.2 = 0
    · exact ⟨s, transformRange_ok.mpr ⟨g, hg, .inl ⟨.inr hn, rfl⟩⟩⟩
    · exact ⟨_, transformRange_ok.mpr ⟨g, hg, .inr ⟨x, ht, hn, hr.le (by omega), rfl⟩⟩⟩

theorem continueOp_answers {i : Instr} {s : State} (h : LegalStep i s) :
    ∃ t, continueOp (operandWords i).1 (operandWords i).2 s = .ok t := by
  cases h with
  | port h => exact continueOp_of_portTurn h.canFinish.1 ▸ portStep_answers h
  | encode hf hp hg hr =>
    obtain ⟨t, ht⟩ := transformRange_answers (d := .encode) hg hr
    rw [continueOp_ctEncode hf, stepCtEncode_of_config hg, exceptBind_of_ok ht]
    exact ⟨_, rfl⟩
  | decode hf hp hg hr =>
    obtain ⟨t, ht⟩ := transformRange_answers (d := .decode) hg hr
    rw [continueOp_crDecode hf, stepCrDecode, exceptBind_of_ok ht]
    exact ⟨_, rfl⟩
  | result hf hp => exact ⟨_, continueOp_crResult hf⟩

theorem sequencerTurn_answers {s : State} (hphase : phaseOk s = true) : ∃ t, sequencerTurn s = .next t := by
  by_cases hb : s.bstat = .busy
  · cases hd : decode s.descriptor with
    | error e => exact ⟨_, sequencerTurn_of_decode_error hb hd⟩
    | ok i =>
      simp only [sequencerTurn_of_decode_ok hb hd, exec_next]
      cases ha : s.atStart with
      | true => exact ⟨_, stepOp_of_atStart ha⟩
      | false =>
        rw [stepOp_of_not_atStart ha]
        exact continueOp_answers (opOk_legalStep (opOk_of_phaseOk hphase ha hd))
  · exact ⟨_, sequencerTurn_of_not_busy hb⟩

theorem applyMove_answers {m : Move} {s : State} (hphase : phaseOk s = true) (hm : moveAllowed s m = true) :
    ∃ t, applyMove m s = .next t := by
  cases m with
  | sequencer => exact sequencerTurn_answers hphase
  | hostLoad a => exact ⟨_, hostLoad_of_free (by simpa [moveAllowed] using hm)⟩
  | hostStore a v => exact ⟨_, hostStore_of_free v (by simpa [moveAllowed] using hm)⟩
  | lineTx c =>
    obtain ⟨ch, hc⟩ := Option.isSome_iff_exists.mp hm
    exact ⟨_, lineTx_of_chan hc⟩
  | lineRx c b pe fe =>
    obtain ⟨ch, hc⟩ := Option.isSome_iff_exists.mp hm
    exact ⟨_, lineRx_of_chan hc _⟩
  | issue | hostRead | reset => exact ⟨_, rfl⟩

/-- Settles O49: taking a move off the schedule changes nothing that the invariant's phases or the move's permission look at,
and every move then answers. -/
theorem invStepAnswersNext : Obligations.InvStepAnswersNext := by
  intro s hinv hm
  obtain ⟨-, -, -, hphase⟩ := hinv
  obtain ⟨q, n, hu⟩ := schedule_eq s
  simp only [step, hu]
  exact applyMove_answers (s := { s with pending := q, turn := n }) hphase hm

end Sys2Proof.Machine
end

section
/-! SUPPORT. What a channel has sent and has yet to send, over a step of the whole machine (R65, R91, R96, R103). -/

namespace Sys2Proof.Machine

/-! ## The transmit buffer under a register write -/

theorem writeReg_txbuf_of_ne (p : Params) (ch : Channel) {r : Reg} (v : Word) (hm : r ≠ .mode) (ht : r ≠ .txreg) :
    (ch.writeReg p r v).txbuf = ch.txbuf := by
  cases r with
  | mode | txreg => contradiction
  | status | rxreg | brg => rfl

/-- A TXREG write appends its byte or loses it. -/
theorem writeTxreg_txbuf (d : Nat) (ch : Channel) (b : Byte) :
    (ch.writeTxreg d (b.setWidth 32)).txbuf = ch.txbuf ∨ (ch.writeTxreg d (b.setWidth 32)).txbuf = ch.txbuf ++ [b] := by
  have hb : (b.setWidth 32).extractLsb' 0 8 = b := by
    have := b.isLt
    apply BitVec.eq_of_toNat_eq
    simp
    omega
  unfold Channel.writeTxreg
  split
  · exact .inr (by rw [hb])
  · exact .inl rfl

/-- The error-merge branch of PR_POLL changes no channel. -/
@[simp] theorem mergeErrors_chans (e : Byte) (s : State) : (mergeErrors e s).chans = s.chans := by
  unfold mergeErrors
  split <;> rfl

/-! ## The transmit buffer over a step of an operation -/

/-- What a step of an operation makes of the transmit buffer of channel P_CH: PI_1 may empty it, PT_WRITE may
append P_D, and otherwise it stays. -/
def TxbufStep (s : State) (ch ch' : Channel) : Prop :=
  s.pphase = .pi1 ∨ ch'.txbuf = ch.txbuf ∨ s.pphase = .ptWrite ∧ ch'.txbuf = ch.txbuf ++ [s.pD]

/-- The lists of channels that a step of an operation can leave, by its transmit buffers. -/
inductive TxbufsStep (s : State) : List Channel → Prop
  | same : TxbufsStep s s.chans
  | own {ch ch' : Channel} (hc : s.chan? s.pCh.toNat = some ch) (h : TxbufStep s ch ch') :
    TxbufsStep s (s.setChan s.pCh.toNat ch').chans

theorem portStep_txbufs {w1 w2 : Word} {s t : State} (h : portStep w1 w2 s = .ok t) : TxbufsStep s t.chans := by
  have hinit {r : Reg} {v : Word} {next : PPhase} (h : initWrite r v next s = .ok t)
      (hb : ∀ ch : Channel, TxbufStep s ch (ch.writeReg s.params r v)) : TxbufsStep s t.chans := by
    obtain ⟨ch, hc, rfl⟩ := initWrite_ok.mp h
    exact .own hc (hb ch)
  cases hp : s.pphase with
  | idle => simp [portStep_idle hp] at h
  | pi1 => exact hinit (portStep_pi1 hp ▸ h) fun _ => .inl hp
  | pi2 => exact hinit (portStep_pi2 hp ▸ h) fun _ => .inr (.inl rfl)
  | pi3 => exact hinit (portStep_pi3 hp ▸ h) fun _ => .inr (.inl rfl)
  | pi4 =>
    refine hinit (portStep_pi4 hp ▸ h) fun ch => .inr (.inl ?_)
    rw [Channel.writeReg, writeMode_of_set ch (by decide)]
  | pi5 =>
    rw [portStep_pi5 hp] at h
    obtain ⟨ch, hc, h⟩ := stepPi5_ok.mp h
    exact (finishTransfer_frame h).chans ▸ .own hc (.inr (.inl rfl))
  | ptPoll =>
    rw [portStep_ptPoll hp] at h
    obtain ⟨ch, hc, ⟨-, rfl⟩ | ⟨-, ⟨b, -, rfl⟩ | ⟨-, rfl⟩⟩⟩ := stepPtPoll_ok h <;> exact .same
  | ptFetch =>
    rw [portStep_ptFetch hp] at h
    obtain ⟨b, rfl⟩ := stepPtFetch_ok h
    exact .same
  | ptWrite =>
    rw [portStep_ptWrite hp] at h
    obtain ⟨ch, hc, h⟩ := stepPtWrite_ok.mp h
    exact (advance_frame h).chans ▸ .own hc (.inr ((writeTxreg_txbuf _ ch s.pD).imp_right fun h => ⟨hp, h⟩))
  | prPoll =>
    rw [portStep_prPoll hp] at h
    obtain ⟨ch, hc, ⟨x, xs, -, rfl⟩ | rfl | rfl⟩ := stepPrPoll_ok h
    · rw [mergeErrors_chans]
      exact .same
    · exact .same
    · exact .same
  | prClear => exact hinit (r := .status) (portStep_prClear hp ▸ h) fun _ => .inr (.inl rfl)
  | prMrd =>
    rw [portStep_prMrd hp] at h
    obtain ⟨b, rfl⟩ := stepPrMrd_ok h
    exact .same
  | prMwr =>
    rw [portStep_prMwr hp] at h
    obtain ⟨e, -, -, rfl⟩ := stepPrMwr_ok h
    exact .same
  | prRead =>
    rw [portStep_prRead hp] at h
    obtain ⟨ch, d, b, hc, ⟨-, rfl⟩ | ⟨-, l, h⟩ | ⟨-, h⟩⟩ := stepPrRead_ok h
    · exact .own hc (.inr (.inl rfl))
    · exact (advance_frame h).chans ▸ .own hc (.inr (.inl rfl))
    · exact (advance_frame h).chans ▸ .own hc (.inr (.inl rfl))
  | prStore =>
    rw [portStep_prStore hp] at h
    obtain ⟨b, -, -, h⟩ := stepPrStore_ok h
    exact (advance_frame h).chans ▸ .same

theorem stepOp_txbufs {i : Instr} {s t : State} (h : stepOp i s = .ok t) : TxbufsStep s t.chans := by
  cases ha : s.atStart with
  | true =>
    obtain rfl := Except.ok.inj ((stepOp_of_atStart ha).symm.trans h)
    exact (acceptOp_frame i s).chans ▸ .same
  | false =>
    rw [stepOp_of_not_atStart ha] at h
    cases hf : s.fphase with
    | ctEncode =>
      rw [continueOp_ctEncode hf] at h
      obtain ⟨g, m, -, -, rfl⟩ := stepCtEncode_ok h
      exact .same
    | crDecode =>
      rw [continueOp_crDecode hf] at h
      obtain ⟨m, -, rfl⟩ := stepCrDecode_ok h
      exact .same
    | crResult =>
      rw [continueOp_crResult hf, Except.ok.injEq] at h
      subst h
      exact .same
    | none | ctLen | ctPayload | crLen | crPayload | crDrain =>
      rw [continueOp_of_portTurn (by simp [State.portTurn, hf])] at h
      exact portStep_txbufs h

/-- A channel's transmit buffer before and after the step. -/
theorem stepOp_txbuf {i : Instr} {s t : State} {c : Nat} {ch ch' : Channel} (h : stepOp i s = .ok t)
    (hc : s.chan? c = some ch) (hc' : t.chan? c = some ch') (hp : s.pphase ≠ .pi1) :
    ch'.txbuf = ch.txbuf ∨ (s.pphase = .ptWrite ∧ s.pCh.toNat = c ∧ ch'.txbuf = ch.txbuf ++ [s.pD]) := by
  have hstep := stepOp_txbufs h
  generalize hl : t.chans = l at hstep
  cases hstep with
  | same =>
    have heq := (chan?_congr hl c).symm.trans hc'
    exact .inl (congrArg Channel.txbuf (Option.some.inj (heq.symm.trans hc)))
  | own hx hstep =>
    by_cases he : c = s.pCh.toNat
    · subst he
      obtain rfl := Option.some.inj (hx.symm.trans hc)
      obtain rfl := Option.some.inj ((chan?_setChan_same _ hx).symm.trans ((chan?_congr hl _).symm.trans hc'))
      exact (hstep.resolve_left hp).imp_right fun ⟨hw, hb⟩ => ⟨hw, rfl, hb⟩
    · have heq := (chan?_setChan_other _ he).symm.trans ((chan?_congr hl c).symm.trans hc')
      exact .inl (congrArg Channel.txbuf (Option.some.inj (heq.symm.trans hc)))

theorem stepOp_wireOut {i : Instr} {s t : State} {c : Nat} {ch ch' : Channel} (h : stepOp i s = .ok t)
    (hc : s.chan? c = some ch) (hc' : t.chan? c = some ch') : ch'.wireOut = ch.wireOut := by
  obtain heq | ⟨x, x', hx, hx', hw, -⟩ := (stepOp_opFrame h).chan?_rel c
  · rw [Option.some.inj (hc'.symm.trans (heq.trans hc))]
  · rw [Option.some.inj (hc.symm.trans hx), Option.some.inj (hc'.symm.trans hx'), hw]

/-! ## The line agents -/

/-- L_TX moves a byte from the transmit buffer to the wire, or does nothing. -/
theorem lineTx_sent (ch : Channel) :
    ch.wireOut <+: ch.lineTx.wireOut ∧ ch.lineTx.wireOut ++ ch.lineTx.txbuf = ch.wireOut ++ ch.txbuf := by
  by_cases h : ch.on = true ∧ ch.txen = true ∧ ch.txbuf ≠ []
  · obtain ⟨hon, htx, hb⟩ := h
    obtain ⟨b, bs, hb⟩ := List.exists_cons_of_ne_nil hb
    simp [lineTx_enabled hon htx hb, hb]
  · simp [lineTx_disabled h]

theorem lineRx_sent (d : Nat) (e : RxEntry) (ch : Channel) :
    (ch.lineRx d e).wireOut = ch.wireOut ∧ (ch.lineRx d e).txbuf = ch.txbuf := by
  unfold Channel.lineRx
  split
  · split <;> exact ⟨rfl, rfl⟩
  · exact ⟨rfl, rfl⟩

/-! ## The statement -/

/-- No byte comes off the channel's wire, and what it has sent and has yet to send is as it was. -/
def SentKept (ch ch' : Channel) : Prop :=
  ch.wireOut <+: ch'.wireOut ∧ ch'.wireOut ++ ch'.txbuf = ch.wireOut ++ ch.txbuf

theorem sentKept_of_eq {ch ch' : Channel} (hw : ch'.wireOut = ch.wireOut) (hb : ch'.txbuf = ch.txbuf) :
    SentKept ch ch' := by
  simp [SentKept, hw, hb]

theorem sentKept_of_chans {s t : State} {c : Nat} {ch ch' : Channel} (h : t.chans = s.chans)
    (hc : s.chan? c = some ch) (hc' : t.chan? c = some ch') : SentKept ch ch' := by
  obtain rfl := Option.some.inj (hc.symm.trans ((chan?_congr h c).symm.trans hc'))
  exact sentKept_of_eq rfl rfl

/-- Replacing one channel by another that has kept what it sent. -/
theorem sentKept_of_setChan {s t : State} {c c' : Nat} {x x' ch ch' : Channel} (h : t.chans = (s.setChan c' x').chans)
    (hx : s.chan? c' = some x) (hkept : SentKept x x') (hc : s.chan? c = some ch) (hc' : t.chan? c = some ch') :
    SentKept ch ch' := by
  by_cases he : c = c'
  · subst he
    obtain rfl := Option.some.inj (hx.symm.trans hc)
    obtain rfl := Option.some.inj ((chan?_setChan_same x' hx).symm.trans ((chan?_congr h c).symm.trans hc'))
    exact hkept
  · have heq := (chan?_setChan_other x' he).symm.trans ((chan?_congr h c).symm.trans hc')
    obtain rfl := Option.some.inj (hc.symm.trans heq)
    exact sentKept_of_eq rfl rfl

/-- The moves other than the sequencer's turn and a reset keep what every channel has sent and has yet to send. -/
theorem applyMove_sentKept {m : Move} {s t : State} {c : Nat} {ch ch' : Channel} (h : applyMove m s = .next t)
    (hseq : m ≠ .sequencer) (hreset : ∀ draws, m ≠ .reset draws) (hc : s.chan? c = some ch)
    (hc' : t.chan? c = some ch') : SentKept ch ch' := by
  cases m with
  | sequencer => contradiction
  | reset draws => exact absurd rfl (hreset draws)
  | issue w0 w1 w2 w3 =>
    obtain rfl := Host.Outcome.next.inj h
    exact sentKept_of_chans (issue_chans _ s) hc hc'
  | hostRead r =>
    obtain rfl := Host.Outcome.next.inj h
    exact sentKept_of_chans rfl hc hc'
  | hostLoad a =>
    obtain rfl := hostLoad_next h
    exact sentKept_of_chans rfl hc hc'
  | hostStore a v =>
    obtain rfl := hostStore_next h
    exact sentKept_of_chans rfl hc hc'
  | lineTx c' =>
    obtain ⟨x, hx, rfl⟩ := lineTx_next h
    exact sentKept_of_setChan rfl hx (lineTx_sent x) hc hc'
  | lineRx c' b pe fe =>
    obtain ⟨x, hx, rfl⟩ := lineRx_next h
    obtain ⟨hw, hb⟩ := lineRx_sent s.params.rxDepth ⟨b, pe, fe⟩ x
    exact sentKept_of_setChan rfl hx (sentKept_of_eq hw hb) hc hc'

/-- The sequencer's turn keeps every wire, and but for PI_1 it keeps a transmit buffer or appends P_D to it in PT_WRITE. -/
theorem sequencerTurn_sent {s t : State} {c : Nat} {ch ch' : Channel} (h : sequencerTurn s = .next t)
    (hc : s.chan? c = some ch) (hc' : t.chan? c = some ch') :
    ch'.wireOut = ch.wireOut ∧ (s.pphase ≠ .pi1 → ch'.txbuf = ch.txbuf ∨
      (s.pphase = .ptWrite ∧ s.pCh.toNat = c ∧ ch'.txbuf = ch.txbuf ++ [s.pD])) := by
  obtain ⟨-, rfl⟩ | ⟨-, c', info, rfl⟩ | ⟨-, i, -, hi⟩ := sequencerTurn_next h
  · obtain rfl := Option.some.inj (hc.symm.trans hc')
    exact ⟨rfl, fun _ => .inl rfl⟩
  · obtain rfl := Option.some.inj (hc.symm.trans ((chan?_congr rfl c).symm.trans hc'))
    exact ⟨rfl, fun _ => .inl rfl⟩
  · exact ⟨stepOp_wireOut hi hc hc', stepOp_txbuf hi hc hc'⟩

/-- Settles O60: the sequencer's turn keeps the wire, and PT_WRITE alone appends to a transmit buffer; every other move moves
bytes from a buffer to its wire at most. -/
theorem wireOrder : Obligations.WireOrder := by
  intro s t c ch ch' h hreset hc hc'
  obtain ⟨q, n, hu⟩ := schedule_eq s
  have h : applyMove (schedule s).1 { s with pending := q, turn := n } = .next t := hu ▸ h
  have hc : { s with pending := q, turn := n }.chan? c = some ch := (chan?_congr rfl c).trans hc
  by_cases hm : (schedule s).1 = .sequencer
  · rw [hm, applyMove_sequencer] at h
    obtain ⟨hw, hb⟩ := sequencerTurn_sent h hc hc'
    refine ⟨by rw [hw], fun hp => ?_⟩
    obtain hb | ⟨hp, hpc, hb⟩ := hb (hp.resolve_left (not_not_intro hm))
    · exact .inl (by rw [hw, hb])
    · exact .inr ⟨hm, hp, hpc, by rw [hw, hb, List.append_assoc]⟩
  · obtain ⟨hw, hkept⟩ := applyMove_sentKept h hm hreset hc hc'
    exact ⟨hw, fun _ => .inl hkept⟩

end Sys2Proof.Machine
end

section
/-! SUPPORT. A receive that waits for a byte: what the poll and the overrun clear do on an empty receive FIFO, and that no
move but an arrival on the channel, an ISSUE or a reset ends the wait (R98, R105, R168, R173). -/

namespace Sys2Proof.Machine

/-! ## The two phases of the wait -/

/-- A poll of an empty receive FIFO goes to clear an overrun or waits. -/
theorem stepPrPoll_of_empty {s : State} {ch : Channel} (hc : s.chan? s.pCh.toNat = some ch) (hf : ch.rxfifo = []) :
    stepPrPoll s = .ok { s with
      pS := ch.statusWord s.params.txDepth, pphase := if ch.oerr then .prClear else s.pphase } := by
  have hda : ch.rxda = false := by simp [Channel.rxda, hf]
  unfold stepPrPoll
  rw [exceptBind_of_ok (regRead_status_of_chan hc)]
  simp only [statusWord_rxda, hda, statusWord_oerr, Bool.false_eq_true, if_false]
  cases ch.oerr <;> rfl

theorem stepPrClear_of_chan {s : State} {ch : Channel} (hc : s.chan? s.pCh.toNat = some ch) :
    stepPrClear s = .ok { s with
      chans := (s.setChan s.pCh.toNat (ch.writeStatus (overrunClear s.pS))).chans, pphase := .prPoll } :=
  initWrite_ok.mpr ⟨ch, hc, rfl⟩

@[simp] theorem lineTx_rxfifo (ch : Channel) : ch.lineTx.rxfifo = ch.rxfifo := by
  unfold Channel.lineTx
  split
  · split <;> rfl
  · rfl

/-- Operation i waits on channel c for a byte to arrive. -/
structure Waiting (i : Instr) (c : Nat) (s : State) : Prop where
  busy : s.bstat = .busy
  decodes : decode s.descriptor = .ok i
  portTurn : s.portTurn
  phase : s.pphase = .prPoll ∨ s.pphase = .prClear
  pCh : s.pCh.toNat = c
  chan : ∃ ch, s.chan? c = some ch ∧ ch.rxfifo = []
  nChannels : s.chans.length = s.params.nChannels
  turn : s.turn ≤ s.params.nChannels

/-- A poll in a legal state whose channel holds no byte is such a wait. -/
theorem waiting_of_inv {s : State} {i : Instr} {ch : Channel} (hinv : Inv s) (hb : s.bstat = .busy)
    (hd : decode s.descriptor = .ok i) (hp : s.pphase = .prPoll) (hc : s.chan? s.pCh.toNat = some ch)
    (hf : ch.rxfifo = []) : Waiting i s.pCh.toNat s := by
  obtain ⟨⟨-, hlen, -, -, -, -, -, hturn⟩, -, -, hphase⟩ := hinv
  have ha : s.atStart = false := by simp [State.atStart, hp]
  have hport : s.portTurn := by
    cases opOk_legalStep (opOk_of_phaseOk hphase ha hd) with
    | port h => exact h.canFinish.1
    | encode _ hidle | decode _ hidle | result _ hidle => simp [hp] at hidle
  exact ⟨hb, hd, hport, .inl hp, rfl, ⟨ch, hc, hf⟩, hlen, hturn⟩

/-- Replacing a channel, with the receive FIFO of channel c kept, leaves the operation waiting. -/
theorem Waiting.setChan {i : Instr} {c c' : Nat} {s : State} {x x' : Channel} (h : Waiting i c s)
    (hx : s.chan? c' = some x) (hkept : c' = c → x'.rxfifo = x.rxfifo) :
    Waiting i c { s with chans := (s.setChan c' x').chans } := by
  obtain ⟨ch, hc, hf⟩ := h.chan
  refine ⟨h.busy, h.decodes, h.portTurn, h.phase, h.pCh, ?chan, (setChan_chans_length s c' x').trans h.nChannels, h.turn⟩
  case chan =>
    by_cases he : c' = c
    · subst he
      obtain rfl := Option.some.inj (hx.symm.trans hc)
      exact ⟨x', (chan?_congr rfl _).trans (chan?_setChan_same x' hx), (hkept rfl).trans hf⟩
    · exact ⟨ch, (chan?_congr rfl c).trans ((chan?_setChan_other x' (Ne.symm he)).trans hc), hf⟩

/-! ## The moves that do not end the wait -/

/-- A move of an agent, in a machine of n channels, that is neither an arrival on channel c nor an ISSUE nor a reset, and no
host access to a byte that operation i names. -/
def KeepsWaiting (i : Instr) (c n : Nat) : Move → Prop
  | .sequencer | .hostRead _ => True
  | .hostLoad a | .hostStore a _ => ¬Names i a.toNat
  | .lineTx c' => 1 ≤ c' ∧ c' ≤ n
  | .lineRx c' _ _ _ => 1 ≤ c' ∧ c' ≤ n ∧ c' ≠ c
  | .issue _ _ _ _ | .reset _ => False

/-- What some moves leave alone: the parameters, the results, and every byte of caller memory that no store of the host
among them writes. -/
structure WaitFrame (moves : Move → Prop) (s t : State) : Prop where
  params : t.params = s.params
  res0 : t.res0 = s.res0
  res1 : t.res1 = s.res1
  mem : ∀ x, (∀ a v, moves (.hostStore a v) → a.toNat ≠ x) → Memory.read t.mem x = Memory.read s.mem x

theorem WaitFrame.trans {moves : Move → Prop} {s t u : State} (h : WaitFrame moves s t) (h' : WaitFrame moves t u) :
    WaitFrame moves s u where
  params := h'.params.trans h.params
  res0 := h'.res0.trans h.res0
  res1 := h'.res1.trans h.res1
  mem x hx := (h'.mem x hx).trans (h.mem x hx)

theorem WaitFrame.mono {p q : Move → Prop} {s t : State} (h : WaitFrame p s t)
    (hpq : ∀ a v, p (.hostStore a v) → q (.hostStore a v)) : WaitFrame q s t :=
  ⟨h.params, h.res0, h.res1, fun x hx => h.mem x fun a v hm => hx a v (hpq a v hm)⟩

/-- The sequencer's turn polls, or clears an overrun and polls again. -/
theorem Waiting.of_sequencerTurn {i : Instr} {c : Nat} {s : State} (h : Waiting i c s) (moves : Move → Prop) :
    ∃ t, sequencerTurn s = .next t ∧ Waiting i c t ∧ t.pending = s.pending ∧ WaitFrame moves s t := by
  obtain ⟨ch, hc, hf⟩ := h.chan
  obtain rfl := h.pCh
  have hstart : s.atStart = false := by
    obtain hp | hp := h.phase <;> simp [State.atStart, hp]
  have hrun (t : State) : sequencerTurn s = .next t ↔ portStep (operandWords i).1 (operandWords i).2 s = .ok t := by
    rw [sequencerTurn_of_decode_ok h.busy h.decodes, exec_next, stepOp_of_not_atStart hstart,
      continueOp_of_portTurn h.portTurn]
  simp only [hrun]
  obtain hp | hp := h.phase
  case inl =>
    refine ⟨_, (portStep_prPoll hp).trans (stepPrPoll_of_empty hc hf), ?_, rfl, ⟨rfl, rfl, rfl, fun _ _ => rfl⟩⟩
    refine ⟨h.busy, h.decodes, h.portTurn, ?phase, rfl, ⟨ch, hc, hf⟩, h.nChannels, h.turn⟩
    cases ho : ch.oerr <;> simp [hp]
  case inr =>
    refine ⟨_, (portStep_prClear hp).trans (stepPrClear_of_chan hc), ?_, rfl, ⟨rfl, rfl, rfl, fun _ _ => rfl⟩⟩
    have hw := h.setChan hc (x' := ch.writeStatus (overrunClear s.pS)) fun _ => rfl
    exact ⟨h.busy, h.decodes, h.portTurn, .inl rfl, rfl, hw.chan, hw.nChannels, h.turn⟩

theorem Waiting.of_applyMove {i : Instr} {c : Nat} {s : State} {m : Move} (h : Waiting i c s)
    (hm : KeepsWaiting i c s.params.nChannels m) :
    ∃ t, applyMove m s = .next t ∧ Waiting i c t ∧ t.pending = s.pending ∧ WaitFrame (· = m) s t := by
  have hfree {a : Nat} (ha : ¬Names i a) : busyByte s a = false := by
    simpa [← busyByte_iff h.busy h.decodes] using ha
  have hchan {c' : Nat} (h1 : 1 ≤ c') (h2 : c' ≤ s.params.nChannels) : ∃ x, s.chan? c' = some x :=
    chan?_exists h1 (h.nChannels ▸ h2)
  cases m with
  | sequencer => exact h.of_sequencerTurn _
  | issue | reset => exact hm.elim
  | hostRead r =>
    exact ⟨_, rfl, ⟨h.busy, h.decodes, h.portTurn, h.phase, h.pCh, h.chan, h.nChannels, h.turn⟩, rfl,
      ⟨rfl, rfl, rfl, fun _ _ => rfl⟩⟩
  | hostLoad a =>
    exact ⟨_, hostLoad_of_free (hfree hm),
      ⟨h.busy, h.decodes, h.portTurn, h.phase, h.pCh, h.chan, h.nChannels, h.turn⟩, rfl,
      ⟨rfl, rfl, rfl, fun _ _ => rfl⟩⟩
  | hostStore a v =>
    exact ⟨_, hostStore_of_free v (hfree hm),
      ⟨h.busy, h.decodes, h.portTurn, h.phase, h.pCh, h.chan, h.nChannels, h.turn⟩, rfl,
      ⟨rfl, rfl, rfl, fun x hx => Memory.read_write_other s.mem (Ne.symm (hx a v rfl))⟩⟩
  | lineTx c' =>
    obtain ⟨x, hx⟩ := hchan hm.1 hm.2
    exact ⟨_, (lineTx_of_chan hx).trans (congrArg _ (setChan_eq _ _ _)), h.setChan hx fun _ => lineTx_rxfifo x, rfl,
      ⟨rfl, rfl, rfl, fun _ _ => rfl⟩⟩
  | lineRx c' b pe fe =>
    obtain ⟨h1, h2, hne⟩ := hm
    obtain ⟨x, hx⟩ := hchan h1 h2
    exact ⟨_, (lineRx_of_chan hx _).trans (congrArg _ (setChan_eq _ _ _)), h.setChan hx fun he => absurd he hne, rfl,
      ⟨rfl, rfl, rfl, fun _ _ => rfl⟩⟩

/-! ## Any number of steps -/

theorem nextTurn_le (n turn : Nat) : nextTurn n turn ≤ n := by
  unfold nextTurn
  split <;> omega

/-- The move that comes up by itself is no store of the host. -/
theorem turnMove_ne_hostStore (turn : Nat) (a : Word) (v : Byte) : Move.hostStore a v ≠ turnMove turn := by
  cases turn <;> simp [turnMove]

theorem keepsWaiting_turnMove {i : Instr} {c n turn : Nat} (h : turn ≤ n) : KeepsWaiting i c n (turnMove turn) := by
  cases turn with
  | zero => trivial
  | succ c' => exact ⟨by omega, h⟩

theorem Waiting.of_step {i : Instr} {c : Nat} {s : State} (h : Waiting i c s)
    (hm : ∀ m ∈ s.pending, KeepsWaiting i c s.params.nChannels m) :
    ∃ t, step s = .next t ∧ Waiting i c t ∧ t.pending ⊆ s.pending ∧ WaitFrame (· ∈ s.pending) s t := by
  cases hq : s.pending with
  | nil =>
    have hu : Waiting i c { s with turn := nextTurn s.params.nChannels s.turn } :=
      ⟨h.busy, h.decodes, h.portTurn, h.phase, h.pCh, h.chan, h.nChannels, nextTurn_le _ _⟩
    obtain ⟨t, ht, hwait, hp, hframe⟩ := hu.of_applyMove (keepsWaiting_turnMove h.turn)
    have hstore := hframe.mono (q := (· ∈ [])) fun a v he => absurd he (turnMove_ne_hostStore s.turn a v)
    exact ⟨t, (step_of_no_pending hq).trans ht, hwait, by simp [hp, hq],
      hstore.params, hstore.res0, hstore.res1, hstore.mem⟩
  | cons m rest =>
    have hu : Waiting i c { s with pending := rest } :=
      ⟨h.busy, h.decodes, h.portTurn, h.phase, h.pCh, h.chan, h.nChannels, h.turn⟩
    obtain ⟨t, ht, hwait, hp, hframe⟩ := hu.of_applyMove (hm m (by simp [hq]))
    have hstore := hframe.mono (q := (· ∈ m :: rest)) fun a v he => he ▸ List.mem_cons_self
    exact ⟨t, (step_of_pending hq).trans ht, hwait, by simp [hp],
      hstore.params, hstore.res0, hstore.res1, hstore.mem⟩

theorem Waiting.of_steps {i : Instr} {c : Nat} (k : Nat) {s : State} (h : Waiting i c s)
    (hm : ∀ m ∈ s.pending, KeepsWaiting i c s.params.nChannels m) :
    ∃ t, steps k s = .next t ∧ Waiting i c t ∧ WaitFrame (· ∈ s.pending) s t := by
  induction k generalizing s with
  | zero => exact ⟨s, rfl, h, rfl, rfl, rfl, fun _ _ => rfl⟩
  | succ k ih =>
    obtain ⟨u, hstep, hu, hsub, hframe⟩ := h.of_step hm
    obtain ⟨t, hsteps, ht, hframe'⟩ := ih hu fun m hmem => hframe.params ▸ hm m (hsub hmem)
    exact ⟨t, by simp only [steps, hstep, hsteps], ht, hframe.trans (hframe'.mono fun _ _ hmem => hsub hmem)⟩

/-- Settles O52, by induction on the number of steps: every move listed keeps the operation waiting, and so does every move
that comes up by itself. -/
theorem receiveHangsWithoutArrival : Obligations.ReceiveHangsWithoutArrival := by
  intro k s i ch hinv hb hd hp hc hf hmoves
  have hkeeps : ∀ m ∈ s.pending, KeepsWaiting i s.pCh.toNat s.params.nChannels m := by
    intro m hmem
    have hm := hmoves m hmem
    cases m with
    | hostLoad a | hostStore a v => exact fun ⟨g, hg, hin⟩ => hm g hg hin
    | sequencer | hostRead | lineTx | lineRx | issue | reset => exact hm
  obtain ⟨t, hsteps, ht, hframe⟩ := (waiting_of_inv hinv hb hd hp hc hf).of_steps k hkeeps
  exact ⟨t, hsteps, ht.busy, ht.phase, hframe.res0, hframe.res1, hframe.mem⟩

end Sys2Proof.Machine
end

section
/-! SUPPORT. The encoding (R120 to R131, R136): the three fields of W0 as numbers, the opcode map read both ways, and what
the decoder answers at each of its checks. -/

namespace Sys2Proof

/-! ## The fields of W0 (R121) -/

theorem opField_toNat (w : Word) : (opField w).toNat = w.toNat % 16 := by
  simp [opField, BitVec.extractLsb'_toNat]

theorem tgtField_toNat (w : Word) : (tgtField w).toNat = w.toNat / 16 % 256 := by
  simp [tgtField, BitVec.extractLsb'_toNat, Nat.shiftRight_eq_div_pow]

/-- RSV is all the bits of W0 from bit 12 up, so it is 0 as a field exactly when the quotient is. -/
theorem rsvField_eq_zero_iff (w : Word) : rsvField w = 0#20 ↔ w.toNat / 4096 = 0 := by
  have hfield : (rsvField w).toNat = w.toNat / 4096 := by
    have hlt : w.toNat / 4096 < 1048576 := by omega
    simpa [rsvField, BitVec.extractLsb'_toNat, Nat.shiftRight_eq_div_pow] using hlt
  rw [← BitVec.toNat_inj, hfield, BitVec.toNat_ofNat, Nat.zero_mod]

theorem opField_packW0 (tgt : Nat) (op : Opcode) : opField (packW0 tgt op) = op.bits :=
  BitVec.extractLsb'_append_eq_right

/-- The three fields are all of W0. -/
theorem fields_append (w : Word) : rsvField w ++ tgtField w ++ opField w = w := by
  have hhigh : rsvField w ++ tgtField w = w.extractLsb' 4 28 := BitVec.extractLsb'_append_extractLsb'_eq_extractLsb' rfl
  have hall : w.extractLsb' 4 28 ++ opField w = w.extractLsb' 0 32 :=
    BitVec.extractLsb'_append_extractLsb'_eq_extractLsb' rfl
  rw [hhigh, hall, BitVec.extractLsb'_eq_self]

/-- W0 packed again from its own fields, where RSV is 0. -/
theorem packW0_fields {w : Word} {op : Opcode} (hop : opField w = op.bits) (hrsv : rsvField w = 0#20) :
    packW0 (tgtField w).toNat op = w := by
  calc packW0 (tgtField w).toNat op = rsvField w ++ tgtField w ++ opField w := by
        rw [packW0, BitVec.ofNat_toNat, BitVec.setWidth_eq, hop, hrsv]
    _ = w := fields_append w

/-! ## The opcode map (R122) -/

theorem ofBits_bits (op : Opcode) : Opcode.ofBits op.bits = some op := by
  cases op with
  | portInit | portTx | portRx | chInit | chTx | chRx => rfl

/-- No two codes name one operation, by the sixteen values of OP. -/
theorem ofBits_eq_some_iff {b : BitVec 4} {op : Opcode} : Opcode.ofBits b = some op ↔ b = op.bits := by
  refine ⟨fun h => ?_, fun h => h ▸ ofBits_bits op⟩
  revert op b
  decide

/-- The operations in the order of R122. -/
def Opcode.all : List Opcode := [.portInit, .portTx, .portRx, .chInit, .chTx, .chRx]

theorem Opcode.mem_all (op : Opcode) : op ∈ Opcode.all := by
  cases op <;> decide

theorem opField_eq_of_toNat {w : Word} {op : Opcode} (h : w.toNat % 16 = op.bits.toNat) : opField w = op.bits :=
  BitVec.eq_of_toNat_eq ((opField_toNat w).trans h)

/-- An OP that is the number of one of some operations is that operation's code. -/
theorem exists_opField_of_mem {w : Word} {ops : List Opcode} (h : w.toNat % 16 ∈ ops.map fun op => op.bits.toNat) :
    ∃ op ∈ ops, opField w = op.bits := by
  obtain ⟨op, hmem, hbits⟩ := List.mem_map.mp h
  exact ⟨op, hmem, opField_eq_of_toNat hbits.symm⟩

theorem ofBits_opField_eq_none {w : Word} (h : w.toNat % 16 ∉ Opcode.all.map fun op => op.bits.toNat) :
    Opcode.ofBits (opField w) = none := by
  refine Option.eq_none_iff_forall_ne_some.mpr fun op hop => h ?_
  rw [← opField_toNat, ofBits_eq_some_iff.mp hop]
  exact List.mem_map_of_mem (Opcode.mem_all op)

/-! ## The unused words (R123 to R128) -/

/-- The two operations without a length, whose W2 is unused. -/
def Opcode.inits : List Opcode := [.portInit, .chInit]

theorem unusedWords_eq_none_iff {op : Opcode} {d : Descriptor} :
    unusedWords op d = none ↔ (op ∈ Opcode.inits → d.w2 = 0#32) ∧ (op ≠ .portRx → d.w3 = 0#32) := by
  cases op with
  | portInit | chInit => by_cases h2 : d.w2 = 0#32 <;> simp [unusedWords, Opcode.inits, h2]
  | portTx | portRx | chTx | chRx => simp [unusedWords, Opcode.inits]

theorem unusedWords_of_w2_ne {op : Opcode} {d : Descriptor} (hop : op ∈ Opcode.inits) (h2 : d.w2 ≠ 0#32) :
    unusedWords op d = some (.reservedField d.w2) := by
  cases op with
  | portInit | chInit => exact if_pos h2
  | portTx | portRx | chTx | chRx => simp [Opcode.inits] at hop

/-- W3 is reported only where W2 has passed. -/
theorem unusedWords_of_w3_ne {op : Opcode} {d : Descriptor} (hop : op ≠ .portRx) (h2 : op ∈ Opcode.inits → d.w2 = 0#32)
    (h3 : d.w3 ≠ 0#32) : unusedWords op d = some (.reservedField d.w3) := by
  cases op with
  | portInit | chInit => exact (if_neg (not_not.mpr (h2 (by decide)))).trans (if_pos h3)
  | portTx | chTx | chRx => exact if_pos h3
  | portRx => exact absurd rfl hop

/-! ## The decode, one lemma a check (R130) -/

theorem decode_of_illegal {d : Descriptor} (h : Opcode.ofBits (opField d.w0) = none) :
    decode d = .error (.illegalOp d.w0) := by
  simp only [decode, h]

theorem decode_of_legal {d : Descriptor} {op : Opcode} (hop : opField d.w0 = op.bits) :
    decode d = if rsvField d.w0 ≠ 0#20 then .error (.reservedField d.w0) else
      (unusedWords op d).elim (.ok (operands op d)) .error := by
  simp only [decode, hop, ofBits_bits]
  cases unusedWords op d <;> rfl

theorem decode_of_reserved {d : Descriptor} {op : Opcode} (hop : opField d.w0 = op.bits) (hrsv : rsvField d.w0 ≠ 0#20) :
    decode d = .error (.reservedField d.w0) := by
  rw [decode_of_legal hop, if_pos hrsv]

theorem decode_of_unused {d : Descriptor} {op : Opcode} {e : DecodeError} (hop : opField d.w0 = op.bits)
    (hrsv : rsvField d.w0 = 0#20) (hun : unusedWords op d = some e) : decode d = .error e := by
  rw [decode_of_legal hop, if_neg (not_not.mpr hrsv), hun, Option.elim_some]

theorem decode_of_fields {d : Descriptor} {op : Opcode} (hop : opField d.w0 = op.bits) (hrsv : rsvField d.w0 = 0#20)
    (hun : unusedWords op d = none) : decode d = .ok (operands op d) := by
  rw [decode_of_legal hop, if_neg (not_not.mpr hrsv), hun, Option.elim_none]

/-- A descriptor that decodes has passed every check. -/
theorem decode_eq_ok_iff {d : Descriptor} {i : Instr} :
    decode d = .ok i ↔
      ∃ op : Opcode, opField d.w0 = op.bits ∧ rsvField d.w0 = 0#20 ∧ unusedWords op d = none ∧ operands op d = i := by
  constructor
  case mpr =>
    rintro ⟨op, hop, hrsv, hun, rfl⟩
    exact decode_of_fields hop hrsv hun
  case mp =>
    intro h
    cases hof : Opcode.ofBits (opField d.w0) with
    | none => simp [decode_of_illegal hof] at h
    | some op =>
      have hop := ofBits_eq_some_iff.mp hof
      by_cases hrsv : rsvField d.w0 = 0#20
      · cases hun : unusedWords op d with
        | some e => simp [decode_of_unused hop hrsv hun] at h
        | none =>
          rw [decode_of_fields hop hrsv hun, Except.ok.injEq] at h
          exact ⟨op, hop, hrsv, hun, h⟩
      · simp [decode_of_reserved hop hrsv] at h

/-! ## The encoder (R121 to R128) -/

/-- The operation code of an operation. -/
def Instr.opcode : Instr → Opcode
  | .portInit .. => .portInit
  | .portTx .. => .portTx
  | .portRx .. => .portRx
  | .chInit .. => .chInit
  | .chTx .. => .chTx
  | .chRx .. => .chRx

theorem encode_w0 (i : Instr) : (encode i).w0 = packW0 i.target i.opcode := by
  cases i with
  | portInit | portTx | portRx | chInit | chTx | chRx => rfl

/-- The encoder leaves every unused word 0. -/
theorem unusedWords_encode (i : Instr) : unusedWords i.opcode (encode i) = none := by
  cases i with
  | portInit | portTx | portRx | chInit | chTx | chRx => rfl

/-- Read back in its own layout, a descriptor gives every operand as it was; the target must fit TGT. -/
theorem operands_encode {i : Instr} (htgt : (tgtField (encode i).w0).toNat = i.target) :
    operands i.opcode (encode i) = i := by
  simp only [operands, htgt]
  cases i with
  | portInit | portTx | portRx | chInit | chTx | chRx => rfl

theorem operands_wf (op : Opcode) (d : Descriptor) : (operands op d).wf = true := by
  have htgt : (operands op d).target = (tgtField d.w0).toNat := by
    cases op with
    | portInit | portTx | portRx | chInit | chTx | chRx => rfl
  simpa only [Instr.wf, decide_eq_true_eq, htgt] using (tgtField d.w0).isLt

/-- What is read in an operation's layout is written back word for word, W0 packed from its target field. -/
theorem encode_operands {op : Opcode} {d : Descriptor} (hun : unusedWords op d = none) :
    encode (operands op d) = { d with w0 := packW0 (tgtField d.w0).toNat op } := by
  obtain ⟨h2, h3⟩ := unusedWords_eq_none_iff.mp hun
  cases op with
  | portInit | chInit => simp [operands, encode, h2 (by decide), h3]
  | portTx | chTx | chRx => simp [operands, encode, h3]
  | portRx => rfl

/-! ## The statements -/

/-- Settles O1: the encoder packs the operation's code and target into W0 and leaves the rest of it and the unused words 0,
so every check passes and the operands are read where they were written. -/
theorem decodeEncodeRoundTrip : Obligations.DecodeEncodeRoundTrip := by
  intro i hwf
  obtain ⟨htgt, hrsv⟩ := Laws.Encoding.of_packed (encode_w0 i) hwf
  have hop : opField (encode i).w0 = i.opcode.bits := by rw [encode_w0, opField_packW0]
  exact decode_eq_ok_iff.mpr ⟨i.opcode, hop, hrsv, unusedWords_encode i, operands_encode htgt⟩

/-- Settles O2: a descriptor that decodes has passed every check, so W0 is its two fields packed and the words that the
encoder writes as 0 are 0. -/
theorem encodeDecodeRoundTrip : Obligations.EncodeDecodeRoundTrip := by
  intro d i h
  obtain ⟨op, hop, hrsv, hun, rfl⟩ := decode_eq_ok_iff.mp h
  exact ⟨operands_wf op d, by rw [encode_operands hun, packW0_fields hop hrsv]⟩

/-- Settles O3: the numbers in W0 name the fields that the checks of R130 look at, and each clause is one check's lemma. -/
theorem decodeReportsFirstFailingCheck : Obligations.DecodeReportsFirstFailingCheck := by
  intro d op tgt rsv
  have hzero (h : rsv = 0) : rsvField d.w0 = 0#20 := (rsvField_eq_zero_iff d.w0).mpr h
  have hok (o : Opcode) (hop : op = o.bits.toNat) (hrsv : rsv = 0) (h2 : o ∈ Opcode.inits → d.w2 = 0#32)
      (h3 : o ≠ .portRx → d.w3 = 0#32) : decode d = .ok (operands o d) :=
    decode_of_fields (opField_eq_of_toNat hop) (hzero hrsv) (unusedWords_eq_none_iff.mpr ⟨h2, h3⟩)
  simp only [operands, tgtField_toNat] at hok
  refine ⟨?illegalOp, ?reserved, ?initW2, ?initW3, ?transferW3, ?portInit, ?portTx, ?portRx, ?chInit, ?chTx, ?chRx⟩
  case illegalOp => exact fun hop => decode_of_illegal (ofBits_opField_eq_none hop)
  case reserved =>
    intro hop hrsv
    obtain ⟨o, -, ho⟩ := exists_opField_of_mem (ops := Opcode.all) hop
    exact decode_of_reserved ho fun h => hrsv ((rsvField_eq_zero_iff d.w0).mp h)
  case initW2 =>
    intro hop hrsv h2
    obtain ⟨o, hmem, ho⟩ := exists_opField_of_mem (ops := Opcode.inits) hop
    exact decode_of_unused ho (hzero hrsv) (unusedWords_of_w2_ne hmem h2)
  case initW3 =>
    intro hop hrsv h2 h3
    obtain ⟨o, hmem, ho⟩ := exists_opField_of_mem (ops := Opcode.inits) hop
    have hne : ∀ o ∈ Opcode.inits, o ≠ .portRx := by decide
    exact decode_of_unused ho (hzero hrsv) (unusedWords_of_w3_ne (hne o hmem) (fun _ => h2) h3)
  case transferW3 =>
    intro hop hrsv h3
    obtain ⟨o, hmem, ho⟩ := exists_opField_of_mem (ops := [.portTx, .chTx, .chRx]) hop
    have hne : ∀ o ∈ [Opcode.portTx, .chTx, .chRx], o ≠ .portRx ∧ o ∉ Opcode.inits := by decide
    obtain ⟨hrx, hinit⟩ := hne o hmem
    exact decode_of_unused ho (hzero hrsv) (unusedWords_of_w3_ne hrx (fun h => absurd h hinit) h3)
  case portInit => exact fun hop hrsv h2 h3 => hok .portInit hop hrsv (fun _ => h2) fun _ => h3
  case portTx => exact fun hop hrsv h3 => hok .portTx hop hrsv (fun h => absurd h (by decide)) fun _ => h3
  case portRx => exact fun hop hrsv => hok .portRx hop hrsv (fun h => absurd h (by decide)) fun h => absurd rfl h
  case chInit => exact fun hop hrsv h2 h3 => hok .chInit hop hrsv (fun _ => h2) fun _ => h3
  case chTx => exact fun hop hrsv h3 => hok .chTx hop hrsv (fun h => absurd h (by decide)) fun _ => h3
  case chRx => exact fun hop hrsv h3 => hok .chRx hop hrsv (fun h => absurd h (by decide)) fun _ => h3

end Sys2Proof

namespace Sys2Proof.Machine

/-- At the start of an operation the phases that a fault clears are clear already. -/
theorem raiseFault_of_atStart {s : State} (h : s.atStart = true) (c : Cause) (info : Word) :
    raiseFault c info s = { s with bstat := .faulted, fcause := some c, finfo := info } := by
  obtain ⟨hf, hp⟩ : s.fphase = .none ∧ s.pphase = .idle := by simpa [State.atStart] using h
  simp only [raiseFault, ← hf, ← hp]

theorem step_of_decode_error {s : State} {rest : List Move} {e : DecodeError} (hp : s.pending = .sequencer :: rest)
    (hb : s.bstat = .busy) (hstart : s.atStart = true) (hd : decode s.descriptor = .error e) :
    step s = .next { s with
      pending := rest, bstat := .faulted, fcause := some (decodeFault e).1, finfo := (decodeFault e).2 } := by
  have hturn := sequencerTurn_of_decode_error (s := { s with pending := rest }) hb hd
  rw [step_of_pending hp, applyMove_sequencer, hturn]
  exact congrArg _ (raiseFault_of_atStart (s := { s with pending := rest }) hstart _ _)

/-- Settles O6: the five clauses in which the decode reports a failing check, each taken as its fault in step 1. -/
theorem illegalDescriptorsFault : Obligations.IllegalDescriptorsFault := by
  intro s rest hp hb hstart op faulted
  obtain ⟨hillegal, hreserved, hinitW2, hinitW3, htransferW3, -⟩ := decodeReportsFirstFailingCheck s.descriptor
  refine ⟨?illegalOp, ?reserved, ?initW2, ?initW3, ?transferW3⟩
  case illegalOp => exact fun hop => step_of_decode_error hp hb hstart (hillegal hop)
  case reserved => exact fun hop hr => step_of_decode_error hp hb hstart (hreserved hop hr)
  case initW2 => exact fun hop hr h2 => step_of_decode_error hp hb hstart (hinitW2 hop hr h2)
  case initW3 => exact fun hop hr h2 h3 => step_of_decode_error hp hb hstart (hinitW3 hop hr h2 h3)
  case transferW3 => exact fun hop hr h3 => step_of_decode_error hp hb hstart (htransferW3 hop hr h3)

/-- Settles O4: each text is assembled by evaluation, and each descriptor is the encoding of its operation, which decodes
back to it. -/
theorem encodingExamples : Obligations.EncodingExamples := by
  refine ⟨by decide, by decide, by decide, by decide, by decide, by decide, by decide, ?portInit, ?portTx, ?portRx,
    ?portDrain, ?chInit, ?chTx, ?chRx⟩
  case portInit => exact decodeEncodeRoundTrip (.portInit 1 9600#32) rfl
  case portTx => exact decodeEncodeRoundTrip (.portTx 1 0x1000#32 20#32) rfl
  case portRx => exact decodeEncodeRoundTrip (.portRx 2 0#32 4#32 0x3000#32) rfl
  case portDrain => exact decodeEncodeRoundTrip (.portRx 1 0#32 3#32 0#32) rfl
  case chInit => exact decodeEncodeRoundTrip (.chInit 0 115200#32) rfl
  case chTx => exact decodeEncodeRoundTrip (.chTx 1 0x1000#32 2#32) rfl
  case chRx => exact decodeEncodeRoundTrip (.chRx 0 0x2000#32 100#32) rfl

end Sys2Proof.Machine
end

section
/-! SUPPORT. Step 1 of the three Port Driver operations and of CH_INIT (R150 to R153, R155, R159, R164, R195): the baud
divisor, what each list of checks answers at its first failing check, and the state that an accepted operation starts in. -/

namespace Sys2Proof.Machine

/-! ## The baud divisor (R152, R153) -/

theorem baudDivisor_zero (p : Params) : baudDivisor p 0#32 = .error (.baudZero, 0#32) := if_pos rfl

/-- The rates that are accepted are those whose quotient fits 1 to 65536. -/
theorem baudQuotient_fits_iff {pclk baud : Nat} :
    (1 ≤ baudQuotient pclk baud ∧ baudQuotient pclk baud ≤ 65536) ↔ 8 ≤ pclk / baud ∧ pclk / baud ≤ 1048583 := by
  unfold baudQuotient
  omega

theorem baudDivisor_ok_iff {p : Params} {baud : Word} :
    (∃ d, baudDivisor p baud = .ok d) ↔
      baud ≠ 0#32 ∧ 1 ≤ baudQuotient p.pclkHz baud.toNat ∧ baudQuotient p.pclkHz baud.toNat ≤ 65536 := by
  constructor
  case mpr => exact fun ⟨hb, h1, h2⟩ => ⟨_, baudDivisor_of_fits hb h1 h2⟩
  case mp =>
    rintro ⟨d, hd⟩
    have hb : baud ≠ 0#32 := by
      rintro rfl
      simp [baudDivisor_zero] at hd
    refine ⟨hb, ?_⟩
    by_contra hfit
    simp [baudDivisor_of_out_of_range (p := p) hb (by omega)] at hd

/-- The divisor of an accepted rate, as a number. -/
theorem baudDivisor_toNat {p : Params} {baud : Word} {d : Divisor} (h : baudDivisor p baud = .ok d) :
    d.toNat = (p.pclkHz / baud.toNat + 8) / 16 - 1 := by
  obtain ⟨hb, h1, h2⟩ := baudDivisor_ok_iff.mp ⟨d, h⟩
  rw [baudDivisor_of_fits hb h1 h2, Except.ok.injEq] at h
  rw [← h, BitVec.toNat_ofNat, Nat.mod_eq_of_lt (by omega), baudQuotient]

/-- At 80 MHz the quotient fits exactly for the rates 77 to 10,000,000. -/
theorem div_80MHz_fits_iff {baud : Nat} (hb : baud ≠ 0) :
    (8 ≤ 80000000 / baud ∧ 80000000 / baud ≤ 1048583) ↔ 77 ≤ baud ∧ baud ≤ 10000000 := by
  have hpos : 0 < baud := Nat.pos_of_ne_zero hb
  rw [Nat.le_div_iff_mul_le hpos, ← Nat.lt_succ_iff (m := 80000000 / baud), Nat.div_lt_iff_lt_mul hpos]
  omega

/-- Settles O25: the checks of `baudDivisor` are bounds on the quotient, which are bounds on PCLK_HZ / baud. -/
theorem baudDivisorRange : Obligations.BaudDivisorRange := by
  intro p baud
  refine ⟨?zero, fun hb h1 h2 => ?fits, fun hb hout => ?range, fun hp => ?at80MHz⟩
  case zero =>
    rintro rfl
    exact baudDivisor_zero p
  case fits =>
    obtain ⟨hq1, hq2⟩ := baudQuotient_fits_iff.mpr ⟨h1, h2⟩
    exact ⟨baudDivisor_of_fits hb hq1 hq2, by omega⟩
  case range =>
    rw [← baudQuotient_fits_iff] at hout
    exact baudDivisor_of_out_of_range hb (by omega)
  case at80MHz =>
    have hzero : baud = 0#32 ↔ baud.toNat = 0 := by rw [← BitVec.toNat_inj, BitVec.toNat_ofNat, Nat.zero_mod]
    rw [baudDivisor_ok_iff, baudQuotient_fits_iff, hp, Ne, hzero]
    by_cases hb : baud.toNat = 0
    · simp [hb]
    · rw [and_iff_right hb, div_80MHz_fits_iff hb]

/-! ## The checks, at the first that fails (R240) -/

theorem exceptBind_of_error {ε α β : Type} {x : Except ε α} {f : α → Except ε β} {e : ε} (h : x = .error e) :
    x.bind f = .error e := by
  rw [h]
  rfl

theorem checkReady_error {s : State} {c : Nat} (h : s.isReady c = false) :
    checkReady s c = .error (.notInit, BitVec.ofNat 32 c) := if_neg (by simp [h])

theorem checkNull_error {n : Word} (h : n ≠ 0#32) : checkNull 0#32 n = .error (.nullPtr, n) :=
  if_pos ⟨word_pos.mpr h, rfl⟩

theorem checkRange_error {p : Params} {a : Word} {n : Nat} (h : admitted p a.toNat n = false) :
    checkRange p a n = .error (.memRange, a) := if_neg (by simp [h])

theorem checkInit_of_bad_channel {s : State} {c : Nat} (baud : Word) (h : c = 0 ∨ s.params.nChannels < c) :
    checkInit s c baud = .error (.badChannel, BitVec.ofNat 32 c) := exceptBind_of_error (checkChannel_error h)

theorem checkInit_of_channel {s : State} {c : Nat} (baud : Word) (h1 : 1 ≤ c) (h2 : c ≤ s.params.nChannels) :
    checkInit s c baud = baudDivisor s.params baud := exceptBind_of_ok (checkChannel_ok.mpr ⟨h1, h2⟩)

theorem checkTx_of_bad_channel {s : State} {c : Nat} (a n : Word) (h : c = 0 ∨ s.params.nChannels < c) :
    checkTx s c a n = .error (.badChannel, BitVec.ofNat 32 c) := exceptBind_of_error (checkChannel_error h)

theorem checkPortRx_of_bad_channel {s : State} {c : Nat} (b n e : Word) (h : c = 0 ∨ s.params.nChannels < c) :
    checkPortRx s c b n e = .error (.badChannel, BitVec.ofNat 32 c) := exceptBind_of_error (checkChannel_error h)

section
variable {s : State} {c : Nat} (h1 : 1 ≤ c) (h2 : c ≤ s.params.nChannels)
include h1 h2

theorem checkTx_of_not_ready (a n : Word) (hr : s.isReady c = false) :
    checkTx s c a n = .error (.notInit, BitVec.ofNat 32 c) :=
  (exceptBind_of_ok (checkChannel_ok.mpr ⟨h1, h2⟩)).trans (exceptBind_of_error (checkReady_error hr))

theorem checkPortRx_of_not_ready (b n e : Word) (hr : s.isReady c = false) :
    checkPortRx s c b n e = .error (.notInit, BitVec.ofNat 32 c) :=
  (exceptBind_of_ok (checkChannel_ok.mpr ⟨h1, h2⟩)).trans (exceptBind_of_error (checkReady_error hr))

/-- On a READY channel the operands of a transmit are checked. -/
theorem checkTx_of_ready (a n : Word) (hr : s.isReady c = true) :
    checkTx s c a n = (checkNull a n).bind fun _ => checkRange s.params a n.toNat :=
  (exceptBind_of_ok (checkChannel_ok.mpr ⟨h1, h2⟩)).trans (exceptBind_of_ok (checkReady_ok.mpr hr))

/-- On a READY channel the operands of a receive are checked, each where it is not null. -/
theorem checkPortRx_of_ready (b n e : Word) (hr : s.isReady c = true) :
    checkPortRx s c b n e =
      (if b = 0#32 then .ok () else checkRange s.params b n.toNat).bind fun _ =>
        if n = 0#32 ∨ e = 0#32 then .ok () else checkRange s.params e 1 :=
  (exceptBind_of_ok (checkChannel_ok.mpr ⟨h1, h2⟩)).trans (exceptBind_of_ok (checkReady_ok.mpr hr))

theorem checkTx_of_null {n : Word} (hr : s.isReady c = true) (hn : n ≠ 0#32) :
    checkTx s c 0#32 n = .error (.nullPtr, n) :=
  (checkTx_of_ready h1 h2 _ _ hr).trans (exceptBind_of_error (checkNull_error hn))

theorem checkTx_of_bad_range {a n : Word} (hr : s.isReady c = true) (ha : a ≠ 0#32)
    (hadm : admitted s.params a.toNat n.toNat = false) : checkTx s c a n = .error (.memRange, a) := by
  rw [checkTx_of_ready h1 h2 _ _ hr, exceptBind_of_ok (checkNull_ok.mpr (.inr ha)), checkRange_error hadm]

theorem checkPortRx_of_bad_buffer {b n : Word} (e : Word) (hr : s.isReady c = true) (hb : b ≠ 0#32)
    (hadm : admitted s.params b.toNat n.toNat = false) : checkPortRx s c b n e = .error (.memRange, b) := by
  rw [checkPortRx_of_ready h1 h2 _ _ _ hr, if_neg hb, exceptBind_of_error (checkRange_error hadm)]

/-- The buffer of a receive passes where it is null or admitted. -/
theorem checkPortRx_of_buffer {b n : Word} (e : Word) (hr : s.isReady c = true)
    (hb : b = 0#32 ∨ admitted s.params b.toNat n.toNat = true) :
    checkPortRx s c b n e = if n = 0#32 ∨ e = 0#32 then .ok () else checkRange s.params e 1 := by
  have hbuf : (if b = 0#32 then .ok () else checkRange s.params b n.toNat : Except FaultInfo Unit) = .ok () := by
    split
    case isTrue => rfl
    case isFalse hne => exact checkRange_ok.mpr (hb.resolve_left hne)
  rw [checkPortRx_of_ready h1 h2 _ _ _ hr, exceptBind_of_ok hbuf]

theorem checkPortRx_of_bad_err {b n e : Word} (hr : s.isReady c = true) (hn : n ≠ 0#32)
    (hb : b = 0#32 ∨ admitted s.params b.toNat n.toNat = true) (he : e ≠ 0#32)
    (hadm : admitted s.params e.toNat 1 = false) : checkPortRx s c b n e = .error (.memRange, e) := by
  rw [checkPortRx_of_buffer h1 h2 _ hr hb, if_neg (by simp [hn, he]), checkRange_error hadm]

theorem checkPortRx_of_admitted {b n e : Word} (hr : s.isReady c = true)
    (hb : b = 0#32 ∨ admitted s.params b.toNat n.toNat = true)
    (he : n = 0#32 ∨ e = 0#32 ∨ admitted s.params e.toNat 1 = true) : checkPortRx s c b n e = .ok () := by
  rw [checkPortRx_of_buffer h1 h2 _ hr hb]
  split
  case isTrue => rfl
  case isFalse hne => exact checkRange_ok.mpr (by tauto)

end

/-! ## Step 1, by what its checks answer -/

theorem exec_of_atStart {i : Instr} {s : State} (h : s.atStart = true) : exec i s = .next (acceptOp i s) :=
  exec_next.mpr (stepOp_of_atStart h)

theorem acceptInit_of_error {s : State} {c : Nat} {baud info : Word} {k : Cause}
    (h : checkInit s c baud = .error (k, info)) : acceptInit c baud s = raiseFault k info s := by
  simp only [acceptInit, h]

theorem acceptInit_of_ok {s : State} {c : Nat} {baud : Word} {d : Divisor} (h : checkInit s c baud = .ok d) :
    acceptInit c baud s = { s with pCh := BitVec.ofNat 8 c, pBrg := d, pphase := .pi1 } := by
  simp only [acceptInit, h]

theorem acceptChInit_of_config {s : State} {k : Nat} {g : ChannelConfig} (baud : Word)
    (h : s.params.configs[k]? = some g) : acceptChInit k baud s = acceptInit g.channel.toNat baud s := by
  simp only [acceptChInit, findConfig, h]

theorem acceptChInit_of_no_config {s : State} {k : Nat} (baud : Word) (h : s.params.configs.length ≤ k) :
    acceptChInit k baud s = raiseFault .badConfig (BitVec.ofNat 32 k) s := by
  simp only [acceptChInit, findConfig, List.getElem?_eq_none h]

theorem acceptPortTx_of_error {s : State} {c : Nat} {a n info : Word} {k : Cause}
    (h : checkTx s c a n = .error (k, info)) : acceptPortTx c a n s = raiseFault k info s := by
  simp only [acceptPortTx, h]

theorem acceptPortTx_of_ok {s : State} {c : Nat} {a n : Word} (h : checkTx s c a n = .ok ()) :
    acceptPortTx c a n s =
      if n = 0#32 then complete (startTx (BitVec.ofNat 8 c) (.mem a) n s) else startTx (BitVec.ofNat 8 c) (.mem a) n s := by
  simp only [acceptPortTx, h]

theorem acceptPortRx_of_error {s : State} {c : Nat} {b n e info : Word} {k : Cause}
    (h : checkPortRx s c b n e = .error (k, info)) : acceptPortRx c b n e s = raiseFault k info s := by
  simp only [acceptPortRx, h]

theorem acceptPortRx_of_ok {s : State} {c : Nat} {b n e : Word} (h : checkPortRx s c b n e = .ok ()) :
    acceptPortRx c b n e s =
      if n = 0#32 then complete (startRx (BitVec.ofNat 8 c) (sinkOf b) n (errTargetOf e) s)
      else startRx (BitVec.ofNat 8 c) (sinkOf b) n (errTargetOf e) s := by
  simp only [acceptPortRx, h]

/-- Completing what is still at the start of an operation, but for PPHASE, leaves the phases as they were. -/
theorem complete_of_atStart {s : State} (h : s.atStart = true) (p : PPhase) :
    complete { s with pphase := p } = { s with bstat := .idle } := by
  obtain ⟨hf, hp⟩ : s.fphase = .none ∧ s.pphase = .idle := by simpa [State.atStart] using h
  simp only [complete, ← hf, ← hp]

/-! ## The statements -/

/-- Settles O26: both operations pass the same checks on channel c, whose answer is the divisor. -/
theorem initOperationsAccept : Obligations.InitOperationsAccept := by
  intro s c k g baud hstart h1 h2 hb hq1 hq2 t
  have haccept : acceptInit c baud s = t :=
    acceptInit_of_ok ((checkInit_of_channel baud h1 h2).trans (baudDivisor_of_fits hb hq1 hq2))
  refine ⟨(exec_of_atStart hstart).trans (congrArg _ haccept), fun hg hc => ?_⟩
  subst hc
  exact (exec_of_atStart hstart).trans (congrArg _ ((acceptChInit_of_config baud hg).trans haccept))

/-- Settles O27: the first check that fails gives the fault; CH_INIT finds its configuration first and then makes
PORT_INIT's checks. -/
theorem initOperationsFault : Obligations.InitOperationsFault := by
  intro s c k g baud hstart
  have hfault {cause : Cause} {info : Word} (h : checkInit s c baud = .error (cause, info)) :
      exec (.portInit c baud) s = .next (raiseFault cause info s) :=
    (exec_of_atStart hstart).trans (congrArg _ (acceptInit_of_error h))
  refine ⟨fun hk => ?badConfig, fun hg hc => ?config, fun hc => hfault (checkInit_of_bad_channel baud hc),
    fun h1 h2 hb => hfault ?baudZero, fun h1 h2 hb hq => hfault ?baudRange⟩
  case badConfig => exact (exec_of_atStart hstart).trans (congrArg _ (acceptChInit_of_no_config baud hk))
  case config =>
    subst hc
    rw [exec_of_atStart hstart, exec_of_atStart hstart]
    exact congrArg _ (acceptChInit_of_config baud hg)
  case baudZero =>
    subst hb
    exact (checkInit_of_channel _ h1 h2).trans (baudDivisor_zero _)
  case baudRange => exact (checkInit_of_channel baud h1 h2).trans (baudDivisor_of_out_of_range hb hq)

/-- Settles O31: where its checks pass PORT_TX starts TxBytes, and completes at once with length 0, whose empty range is
admitted. -/
theorem portTxAccepts : Obligations.PortTxAccepts := by
  intro s c a n hstart h1 h2 hr
  refine ⟨fun hn ha hadm => ?start, fun hn => ?empty⟩
  case start =>
    rw [exec_of_atStart hstart, acceptOp, acceptPortTx_of_ok (checkTx_ok.mpr ⟨⟨h1, h2⟩, hr, .inr ha, hadm⟩), if_neg hn]
    rfl
  case empty =>
    have hadm : admitted s.params a.toNat n.toNat = true := hn ▸ admitted_zero _ _
    rw [exec_of_atStart hstart, acceptOp, acceptPortTx_of_ok (checkTx_ok.mpr ⟨⟨h1, h2⟩, hr, .inl hn, hadm⟩), if_pos hn]
    exact congrArg _ (complete_of_atStart (s := { s with
      pCh := BitVec.ofNat 8 c, pSrc := .mem a, pLen := n, pIdx := 0#32 }) hstart .ptPoll)

/-- Settles O34: where its checks pass PORT_RX starts RxBytes, and completes at once with length 0, with which neither
operand is refused. -/
theorem portRxAccepts : Obligations.PortRxAccepts := by
  intro s c b n e hstart h1 h2 hr t
  refine ⟨fun hn hb he => ?start, fun hn => ?empty⟩
  case start =>
    have hok := checkPortRx_of_admitted h1 h2 hr (or_iff_not_imp_left.mpr hb) (.inr (or_iff_not_imp_left.mpr he))
    rw [exec_of_atStart hstart, acceptOp, acceptPortRx_of_ok hok, if_neg hn]
    rfl
  case empty =>
    have hadm : admitted s.params b.toNat n.toNat = true := hn ▸ admitted_zero _ _
    have hok := checkPortRx_of_admitted (e := e) h1 h2 hr (.inr hadm) (.inl hn)
    rw [exec_of_atStart hstart, acceptOp, acceptPortRx_of_ok hok, if_pos hn]
    exact congrArg _ (complete_of_atStart (s := t) hstart .prPoll)

/-- Settles O38: the first check that fails gives the fault; the checks on the channel are the same in both operations. -/
theorem portTransfersFault : Obligations.PortTransfersFault := by
  intro s c a n e hstart
  have htx {cause : Cause} {info : Word} (h : checkTx s c a n = .error (cause, info)) :
      exec (.portTx c a n) s = .next (raiseFault cause info s) :=
    (exec_of_atStart hstart).trans (congrArg _ (acceptPortTx_of_error h))
  have hrx {cause : Cause} {info : Word} (h : checkPortRx s c a n e = .error (cause, info)) :
      exec (.portRx c a n e) s = .next (raiseFault cause info s) :=
    (exec_of_atStart hstart).trans (congrArg _ (acceptPortRx_of_error h))
  refine ⟨fun hc => ⟨htx (checkTx_of_bad_channel a n hc), hrx (checkPortRx_of_bad_channel a n e hc)⟩,
    fun h1 h2 hr => ⟨htx (checkTx_of_not_ready h1 h2 a n hr), hrx (checkPortRx_of_not_ready h1 h2 a n e hr)⟩,
    fun h1 h2 hr hn => ⟨fun ha => htx ?null, fun ha hadm => ⟨htx ?txRange, hrx ?rxRange⟩,
      fun ha he hadm => hrx ?errRange⟩⟩
  case null => exact ha ▸ checkTx_of_null h1 h2 hr hn
  case txRange => exact checkTx_of_bad_range h1 h2 hr ha hadm
  case rxRange => exact checkPortRx_of_bad_buffer h1 h2 e hr ha hadm
  case errRange => exact checkPortRx_of_bad_err h1 h2 hr hn ha he hadm

end Sys2Proof.Machine
end

section
/-! SUPPORT. The steps of the port engine where they have what they need, with the whole next state: the init sequence (R155
steps 2 to 6), TxBytes (R159) and RxBytes (R164), and the steps of the three Port Driver operations that they are. -/

namespace Sys2Proof.Machine

/-! ## Replacing a channel, among other updates -/

/-- The list of channels that a replacement leaves depends on nothing but the list before it. -/
theorem setChan_chans_congr {s t : State} (h : t.chans = s.chans) (c : Nat) (ch : Channel) :
    (t.setChan c ch).chans = (s.setChan c ch).chans := by
  cases c with
  | zero => exact h
  | succ k => simp only [State.setChan, h]

@[simp] theorem setChan_setChan (s : State) (c : Nat) (ch ch' : Channel) :
    (s.setChan c ch).setChan c ch' = s.setChan c ch' := by
  cases c with
  | zero => rfl
  | succ k => simp only [State.setChan, List.set_set]

/-- A replacement and an update of other fields, in either order. -/
theorem setChan_eq_of_chans {s t : State} {c : Nat} {ch : Channel} (h : t.chans = s.chans) :
    t.setChan c ch = { t with chans := (s.setChan c ch).chans } := by
  rw [setChan_eq t, setChan_chans_congr h]

/-- Replacing a channel of a machine whose channels are those after the same channel's replacement. -/
theorem setChan_chans_of_setChan {s t : State} {c : Nat} {x y : Channel} (h : t.chans = (s.setChan c x).chans) :
    (t.setChan c y).chans = (s.setChan c y).chans := by
  rw [setChan_chans_congr h, setChan_setChan]

theorem setChan_eq_of_setChan {s t : State} {c : Nat} {x y : Channel} (h : t.chans = (s.setChan c x).chans) :
    t.setChan c y = { t with chans := (s.setChan c y).chans } := by
  rw [setChan_eq t, setChan_chans_of_setChan h]

/-! ## A step past step 1 of an operation that does not return to the framing layer -/

theorem portTurn_of_none {s : State} (h : s.fphase = .none) : s.portTurn := by simp [State.portTurn, h]

theorem exec_of_portStep {i : Instr} {s t : State} (hport : s.portTurn) (hp : s.pphase ≠ .idle)
    (h : portStep (operandWords i).1 (operandWords i).2 s = .ok t) : exec i s = .next t := by
  rw [exec_next, stepOp_of_not_atStart (by simp [State.atStart, hp]), continueOp_of_portTurn hport, h]

theorem finishTransfer_of_none {w1 w2 : Word} {s : State} (h : s.fphase = .none) :
    finishTransfer w1 w2 s = .ok { s with pphase := .idle, bstat := .idle } := by
  simp only [finishTransfer, h]
  rw [complete, ← h]

/-- One byte done, where the end of the transfer is the end of the operation. -/
theorem advance_of_none {poll : PPhase} {w1 w2 : Word} {s : State} (h : s.fphase = .none) :
    advance poll w1 w2 s = .ok
      (if s.pIdx + 1#32 = s.pLen then { s with pIdx := s.pIdx + 1#32, pphase := .idle, bstat := .idle }
       else { s with pIdx := s.pIdx + 1#32, pphase := poll }) := by
  by_cases hl : s.pIdx + 1#32 = s.pLen
  · rw [advance_of_last hl, if_pos hl]
    exact finishTransfer_of_none h
  · rw [advance_of_more hl, if_neg hl]

/-! ## The init sequence -/

theorem initWrite_of_chan {r : Reg} {v : Word} {next : PPhase} {s : State} {ch : Channel}
    (hc : s.chan? s.pCh.toNat = some ch) :
    initWrite r v next s = .ok ({ s with pphase := next }.setChan s.pCh.toNat (ch.writeReg s.params r v)) :=
  initWrite_ok.mpr ⟨ch, hc, setChan_eq_of_chans rfl⟩

theorem stepPi5_of_chan {w1 w2 : Word} {s : State} {ch : Channel} (hc : s.chan? s.pCh.toNat = some ch)
    (hf : s.fphase = .none) :
    stepPi5 w1 w2 s = .ok ({ s with pphase := .idle, bstat := .idle }.setChan s.pCh.toNat
      { ch with txen := true, rxen := true, oerr := false, chst := .ready }) := by
  refine stepPi5_ok.mpr ⟨ch, hc, ?_⟩
  rw [writeStatus_of_clear ch (by decide)]
  refine (finishTransfer_of_none ?_).trans (congrArg _ ?_)
  · exact hf
  · exact (setChan_eq_of_chans (s := s) (t := { s with pphase := .idle, bstat := .idle }) rfl).symm

/-- Settles O28: the init sequence's phases are the port engine's, and each is one register write of channel P_CH. -/
theorem initSequenceSteps : Obligations.InitSequenceSteps := by
  intro s i c baud ch _ hf hc
  have hstep {t : State} (hp : s.pphase ≠ .idle)
      (h : portStep (operandWords i).1 (operandWords i).2 s = .ok t) : exec i s = .next t :=
    exec_of_portStep (portTurn_of_none hf) hp h
  refine ⟨fun hp => hstep (by simp [hp]) ?pi1, fun hp => hstep (by simp [hp]) ?pi2,
    fun hp => hstep (by simp [hp]) ?pi3, fun hp => hstep (by simp [hp]) ?pi4, fun hp => hstep (by simp [hp]) ?pi5⟩
  case pi1 => rw [portStep_pi1 hp, initWrite_of_chan hc, Channel.writeReg, writeMode_of_clear ch (by decide)]
  case pi2 =>
    rw [portStep_pi2 hp, initWrite_of_chan hc, Channel.writeReg, writeStatus_of_clear ch (by decide)]
    rfl
  case pi3 =>
    have hdiv : (s.pBrg.setWidth 32).extractLsb' 0 16 = s.pBrg := by
      have := s.pBrg.isLt
      apply BitVec.eq_of_toNat_eq
      simp
      omega
    rw [portStep_pi3 hp, initWrite_of_chan hc, Channel.writeReg, Channel.writeBrg, hdiv]
  case pi4 => rw [portStep_pi4 hp, initWrite_of_chan hc, Channel.writeReg, writeMode_of_set ch (by decide)]
  case pi5 => rw [portStep_pi5 hp, stepPi5_of_chan hc hf]

/-! ## TxBytes -/

theorem stepPtPoll_of_full {s : State} {ch : Channel} (hc : s.chan? s.pCh.toNat = some ch)
    (h : ch.txbuf.length = s.params.txDepth) : stepPtPoll s = .ok s := by
  have hfull : ch.txbf s.params.txDepth = true := txbf_iff.mpr h
  unfold stepPtPoll
  rw [exceptBind_of_ok (regRead_status_of_chan hc)]
  simp only [statusWord_txbf, hfull, if_true]

theorem stepPtPoll_of_room {s : State} {ch : Channel} {a : Word} (hc : s.chan? s.pCh.toNat = some ch)
    (hs : s.pSrc = .mem a) (h : ch.txbuf.length ≠ s.params.txDepth) :
    stepPtPoll s = .ok { s with pphase := .ptFetch } := by
  have hroom : ch.txbf s.params.txDepth = false := by simpa [← txbf_iff] using h
  unfold stepPtPoll
  rw [exceptBind_of_ok (regRead_status_of_chan hc)]
  simp only [statusWord_txbf, hroom, hs, Bool.false_eq_true, if_false]

theorem byte_of_setWidth (b : Byte) : (b.setWidth 32).extractLsb' 0 8 = b := by
  have := b.isLt
  apply BitVec.eq_of_toNat_eq
  simp
  omega

/-- The TXREG write of PT_WRITE, where the channel is on and has room (R91, R160). -/
theorem writeReg_txreg_of_room {p : Params} {ch : Channel} (b : Byte) (hon : ch.on = true)
    (hroom : ch.txbuf.length < p.txDepth) :
    ch.writeReg p .txreg (b.setWidth 32) = { ch with txbuf := ch.txbuf ++ [b] } := by
  rw [Channel.writeReg, writeTxreg_of_room _ hon hroom, byte_of_setWidth]

theorem stepPtWrite_of_room {w1 w2 : Word} {s : State} {ch : Channel} (hc : s.chan? s.pCh.toNat = some ch)
    (hon : ch.on = true) (hroom : ch.txbuf.length < s.params.txDepth) :
    stepPtWrite w1 w2 s =
      advance .ptPoll w1 w2 (s.setChan s.pCh.toNat { ch with txbuf := ch.txbuf ++ [s.pD] }) := by
  rw [stepPtWrite, exceptBind_of_ok (regWrite_of_chan hc .txreg _), writeReg_txreg_of_room s.pD hon hroom]

/-- Settles O32: each phase of TxBytes is a step of the port engine, and the end of the transfer is the end of PORT_TX. -/
theorem portTxByteSteps : Obligations.PortTxByteSteps := by
  intro s c x n a ch hf hs hc
  have hstep {t : State} (hp : s.pphase ≠ .idle) (h : portStep x n s = .ok t) : exec (.portTx c x n) s = .next t :=
    exec_of_portStep (i := .portTx c x n) (portTurn_of_none hf) hp h
  refine ⟨fun hp hfull => hstep (by simp [hp]) ?waits, fun hp hroom => hstep (by simp [hp]) ?polls,
    fun hp hlt => hstep (by simp [hp]) ?fetches, fun hp hon hroom => hstep (by simp [hp]) ?writes⟩
  case waits => rw [portStep_ptPoll hp, stepPtPoll_of_full hc hfull]
  case polls => rw [portStep_ptPoll hp, stepPtPoll_of_room hc hs hroom]
  case fetches => exact (portStep_ptFetch_of_mem hp hs).trans (exceptBind_of_ok (memRead_of_lt hlt))
  case writes =>
    rw [portStep_ptWrite hp, stepPtWrite_of_room hc hon hroom, advance_of_none ((setChan_fphase ..).trans hf)]
    simp only [setChan_pIdx, setChan_pLen]

/-! ## RxBytes -/

/-- A poll of a receive FIFO that holds an entry goes on to its errors. -/
theorem stepPrPoll_of_entry {s : State} {ch : Channel} {x : RxEntry} {xs : List RxEntry}
    (hc : s.chan? s.pCh.toNat = some ch) (hx : ch.rxfifo = x :: xs) :
    stepPrPoll s = .ok (mergeErrors x.bits { s with pS := ch.statusWord s.params.txDepth }) := by
  have hda : ch.rxda = true := rxda_iff.mpr (by simp [hx])
  have hpe : ch.perr = x.pe := by simp [Channel.perr, hx]
  have hfe : ch.ferr = x.fe := by simp [Channel.ferr, hx]
  unfold stepPrPoll
  rw [exceptBind_of_ok (regRead_status_of_chan hc)]
  simp only [statusWord_rxda, statusWord_perr, statusWord_ferr, hda, hpe, hfe, if_true, RxEntry.bits]

/-- An error that the caller's error byte has to take is merged into it. -/
theorem mergeErrors_of_merge {s : State} {e : Word} {err : Byte} (he : s.pErr = .mem e) (h : err ≠ 0#8) :
    mergeErrors err s = { s with pE := err, pphase := .prMrd } := by
  simp only [mergeErrors, he, if_neg h]

/-- With no error target, or with no error to merge into the caller's byte, the byte is read at once. -/
theorem mergeErrors_of_no_merge {s : State} {err : Byte} (hsum : s.pErr ≠ .sum) (h : s.pErr = .none ∨ err = 0#8) :
    mergeErrors err s = { s with pE := err, pphase := .prRead } := by
  unfold mergeErrors
  split
  case h_1 he => exact absurd he hsum
  case h_2 he =>
    obtain rfl := h.resolve_left (by simp [he])
    simp only [if_true]
  case h_3 => rfl

/-- Whatever the error target, the byte is then merged or read, and no channel has changed. -/
theorem mergeErrors_pphase (err : Byte) (s : State) :
    (mergeErrors err s).pphase = .prMrd ∨ (mergeErrors err s).pphase = .prRead := by
  unfold mergeErrors
  split
  case h_1 | h_3 => exact .inr rfl
  case h_2 =>
    by_cases h : err = 0#8
    · exact .inr (if_pos h)
    · exact .inl (if_neg h)

theorem stepPrRead_of_entry_mem {w1 w2 : Word} {s : State} {ch : Channel} {x : RxEntry} {xs : List RxEntry} {b : Word}
    (hc : s.chan? s.pCh.toNat = some ch) (hx : ch.rxfifo = x :: xs) (hs : s.pSrc = .mem b) :
    stepPrRead w1 w2 s =
      .ok { s.setChan s.pCh.toNat { ch with rxfifo := xs } with pD := x.data, pphase := .prStore } := by
  unfold stepPrRead
  rw [exceptBind_of_ok (regRead_rxreg_of_entry hc hx)]
  simp only [setChan_pSrc, hs, byte_of_setWidth]

theorem stepPrRead_of_entry_null {w1 w2 : Word} {s : State} {ch : Channel} {x : RxEntry} {xs : List RxEntry}
    (hc : s.chan? s.pCh.toNat = some ch) (hx : ch.rxfifo = x :: xs) (hs : s.pSrc = .null) :
    stepPrRead w1 w2 s =
      advance .prPoll w1 w2 { s.setChan s.pCh.toNat { ch with rxfifo := xs } with pD := x.data } := by
  unfold stepPrRead
  rw [exceptBind_of_ok (regRead_rxreg_of_entry hc hx)]
  simp only [setChan_pSrc, hs, byte_of_setWidth]

/-- Settles O35: each phase of RxBytes is a step of the port engine, and the end of the transfer is the end of PORT_RX. -/
theorem portRxByteSteps : Obligations.PortRxByteSteps := by
  intro s c x n y ch hf hc hsum hlen i polled next
  have hstep {t : State} (hp : s.pphase ≠ .idle) (h : portStep x n s = .ok t) : exec i s = .next t :=
    exec_of_portStep (i := i) (portTurn_of_none hf) hp h
  refine ⟨fun hp hx ho => hstep (by simp [hp]) ?waits,
    fun z zs hp hx => ⟨fun e he herr => hstep (by simp [hp]) ?merges, fun herr => hstep (by simp [hp]) ?polls⟩,
    fun e hp he => hstep (by simp [hp]) ?reads, fun e hp he => hstep (by simp [hp]) ?writes,
    fun z zs hp hx => ⟨fun b hs => hstep (by simp [hp]) ?takes, fun hs => hstep (by simp [hp]) ?drops⟩,
    fun b hp hs hlt => hstep (by simp [hp]) ?stores⟩
  case waits => rw [portStep_prPoll hp, stepPrPoll_of_empty hc hx, ho, if_neg Bool.false_ne_true]
  case merges =>
    rw [portStep_prPoll hp, stepPrPoll_of_entry hc hx]
    exact congrArg _ (mergeErrors_of_merge he herr)
  case polls =>
    rw [portStep_prPoll hp, stepPrPoll_of_entry hc hx]
    exact congrArg _ (mergeErrors_of_no_merge hsum herr)
  case reads => rw [portStep_prMrd_of_mem hp he, exceptBind_of_ok (memRead_of_lt e.isLt)]
  case writes => rw [portStep_prMwr_of_mem hp he, exceptBind_of_ok (memWrite_of_lt _ e.isLt)]
  case takes => rw [portStep_prRead hp, stepPrRead_of_entry_mem hc hx hs]
  case drops =>
    rw [portStep_prRead hp, stepPrRead_of_entry_null hc hx hs]
    refine (advance_of_none ?_).trans ?_
    · exact (setChan_fphase ..).trans hf
    · simp only [next, setChan_pIdx, setChan_pLen]
  case stores =>
    exact ((portStep_prStore_of_mem hp hs).trans (exceptBind_of_ok (memWrite_of_lt _ hlt))).trans (advance_of_none hf)

/-- Settles O36: with no data the poll goes to PR_CLEAR, whose write puts back the STATUS value without its OERR bit; with
data it goes on to the entry and changes no channel. -/
theorem overrunClear_obligation : Obligations.OverrunClear := by
  intro s i c x n y ch hi hc hp ho polled
  have hport : s.portTurn := by
    obtain ⟨-, hf⟩ | ⟨-, hf | hf | hf⟩ := hi <;> simp [State.portTurn, hf]
  refine ⟨fun hx => ⟨?poll, ?clear⟩, fun hx => ?data⟩
  case poll =>
    refine exec_of_portStep hport (by simp [hp]) ?_
    rw [portStep_prPoll hp, stepPrPoll_of_empty hc hx, ho, if_pos rfl]
  case clear =>
    have hpolled : polled = { polled with pphase := .prPoll } := by simp only [polled, ← hp]
    have hc' : { polled with pphase := .prClear }.chan? s.pCh.toNat = some ch := (chan?_congr rfl _).trans hc
    have hwrite : ch.writeReg s.params .status (overrunClear polled.pS) = { ch with oerr := false } :=
      writeStatus_overrunClear _ ch
    refine exec_of_portStep (s := { polled with pphase := .prClear }) hport (by simp) ((portStep_prClear rfl).trans ?_)
    rw [← hwrite, hpolled]
    exact initWrite_of_chan (s := { polled with pphase := .prClear }) hc'
  case data =>
    obtain ⟨z, zs, hx⟩ := List.exists_cons_of_ne_nil hx
    refine ⟨_, exec_of_portStep hport (by simp [hp]) ((portStep_prPoll hp).trans (stepPrPoll_of_entry hc hx)),
      mergeErrors_pphase _ _, mergeErrors_chans _ _⟩

end Sys2Proof.Machine
end

section
/-! SUPPORT. What the invariant says of the channel of an operation in progress: the peripheral of a READY channel is enabled
(R162), PT_WRITE has room (R160), PR_READ has the entry that was polled (R166, R167), and the init sequence has left what its
writes so far leave (R155, R158). -/

namespace Sys2Proof.Machine

/-- Outside an init sequence a READY channel of a BUSY block is enabled. -/
theorem enabled_of_ready {s : State} {c : Nat} {ch : Channel} (hinv : Inv s) (hb : s.bstat = .busy)
    (hp : s.pphase.isInit = false) (hc : s.chan? c = some ch) (hr : ch.chst = .ready) : ch.enabled := by
  obtain ⟨-, -, hready, -⟩ := hinv
  cases c with
  | zero => simp at hc
  | succ k =>
    obtain hen | hfault | ⟨-, hinit, -⟩ := hready k (chan?_le hc) ch hc hr
    · exact hen
    · simp [hb] at hfault
    · simp [hp] at hinit

/-- Where PPHASE is not idle an operation is in progress, and its phases fit it. -/
theorem inProgress_of_inv {s : State} (hinv : Inv s) (hp : s.pphase ≠ .idle) :
    s.bstat = .busy ∧ ∃ i, decode s.descriptor = .ok i ∧ opOk s i = true := by
  obtain ⟨-, ⟨-, -, hidle⟩, -, hphase⟩ := hinv
  have ha : s.atStart = false := by simp [State.atStart, hp]
  refine ⟨by_contra fun hb => hp (hidle hb).2, ?_⟩
  cases hd : decode s.descriptor with
  | error e => simp [phaseOk, ha, hd] at hphase
  | ok i => exact ⟨i, rfl, opOk_of_phaseOk hphase ha hd⟩

/-! ## What the port engine is doing -/

/-- The port engine in an operation past its step 1: idle, or in one of its three sequences. -/
inductive PortEngine (s : State) (i : Instr) : Prop
  | idle (h : s.pphase = .idle)
  | init {c : Nat} {baud : Word} (h : initOk s c baud = true)
      (hi : i = .portInit c baud ∨ ∃ k g, i = .chInit k baud ∧ s.params.configs[k]? = some g ∧ g.channel.toNat = c)
  | tx {c : Nat} {src : Source} {n : Word} (h : txOk s c src n = true)
  | rx {c : Nat} {sink : Source} {n : Word} {err : ErrTarget} (h : rxOk s c sink n err = true)

theorem opOk_portEngine {s : State} {i : Instr} (h : opOk s i = true) : PortEngine s i := by
  cases i with
  | portInit c baud => exact .init h (.inl rfl)
  | portTx c a n => exact .tx (Bool.and_eq_true_iff.mp h).2
  | portRx c b n e => exact .rx (Bool.and_eq_true_iff.mp h).2
  | chInit k baud =>
    simp only [opOk] at h
    split at h
    case h_1 g hg => exact .init h (.inr ⟨k, g, rfl, hg, rfl⟩)
    case h_2 => cases h
  | chTx k a n =>
    simp only [opOk] at h
    split at h
    case h_2 => cases h
    case h_1 =>
      simp only [Bool.and_eq_true, chTxOk] at h
      obtain ⟨-, -, h⟩ := h
      split at h
      case h_1 => exact .idle (by simpa using (Bool.and_eq_true_iff.mp h).1)
      case h_2 | h_3 => exact .tx h
      case h_4 => cases h
  | chRx k b m =>
    simp only [opOk] at h
    split at h
    case h_2 => cases h
    case h_1 =>
      simp only [Bool.and_eq_true, chRxOk] at h
      obtain ⟨-, -, h⟩ := h
      split at h
      case h_1 => exact .rx h
      case h_2 | h_3 => exact .rx (Bool.and_eq_true_iff.mp h).2
      case h_4 | h_5 => exact .idle (by simp_all)
      case h_6 => cases h

theorem initOk_isInit {s : State} {c : Nat} {baud : Word} (h : initOk s c baud = true) : s.pphase.isInit = true := by
  unfold initOk at h
  split at h
  · cases h
  · cases hp : s.pphase <;> simp_all [PPhase.isInit]

/-- The three sequences have no phase in common, and none of them is idle. -/
theorem PPhase.kinds (p : PPhase) :
    ¬(p.isInit = true ∧ p.isTx = true) ∧ ¬(p.isInit = true ∧ p.isRx = true) ∧ ¬(p.isTx = true ∧ p.isRx = true) ∧
      (p = .idle → p.isInit = false ∧ p.isTx = false ∧ p.isRx = false) := by
  cases p <;> decide

theorem txOk_of_isTx {s : State} {i : Instr} (h : opOk s i = true) (hp : s.pphase.isTx = true) :
    ∃ c src n, txOk s c src n = true := by
  obtain ⟨h1, -, h2, h3⟩ := s.pphase.kinds
  cases opOk_portEngine h with
  | idle h => simp [h3 h] at hp
  | init h _ => exact absurd ⟨initOk_isInit h, hp⟩ h1
  | tx h => exact ⟨_, _, _, h⟩
  | rx h => exact absurd ⟨hp, rxOk_isRx h⟩ h2

theorem rxOk_of_isRx {s : State} {i : Instr} (h : opOk s i = true) (hp : s.pphase.isRx = true) :
    ∃ c sink n err, rxOk s c sink n err = true := by
  obtain ⟨-, h1, h2, h3⟩ := s.pphase.kinds
  cases opOk_portEngine h with
  | idle h => simp [h3 h] at hp
  | init h _ => exact absurd ⟨initOk_isInit h, hp⟩ h1
  | tx h => exact absurd ⟨txOk_isTx h, hp⟩ h2
  | rx h => exact ⟨_, _, _, _, h⟩

theorem initOk_of_isInit {s : State} {i : Instr} (h : opOk s i = true) (hp : s.pphase.isInit = true) :
    ∃ c baud, initOk s c baud = true ∧
      (i = .portInit c baud ∨ ∃ k g, i = .chInit k baud ∧ s.params.configs[k]? = some g ∧ g.channel.toNat = c) := by
  obtain ⟨h1, h2, -, h3⟩ := s.pphase.kinds
  cases opOk_portEngine h with
  | idle h => simp [h3 h] at hp
  | init h hi => exact ⟨_, _, h, hi⟩
  | tx h => exact absurd ⟨hp, txOk_isTx h⟩ h1
  | rx h => exact absurd ⟨hp, rxOk_isRx h⟩ h2

/-! ## The channel of each sequence -/

theorem txOk_chan {s : State} {c : Nat} {src : Source} {n : Word} (h : txOk s c src n = true) :
    ∃ ch, s.chan? s.pCh.toNat = some ch ∧ ch.chst = .ready ∧
      (s.pphase = .ptWrite → ch.txbuf.length < s.params.txDepth) := by
  unfold txOk at h
  split at h
  · cases h
  case h_2 ch hc =>
    simp only [Bool.and_eq_true, decide_eq_true_eq] at h
    obtain ⟨⟨⟨rfl, hr, -⟩, -⟩, hphase⟩ := h
    exact ⟨ch, hc, hr, fun hp => by simpa [hp] using hphase⟩

theorem headOk_iff {ch : Channel} {err : Byte} :
    headOk ch err = true ↔ ∃ x xs, ch.rxfifo = x :: xs ∧ err = x.bits := by
  unfold headOk
  cases ch.rxfifo <;> simp

theorem rxOk_chan {s : State} {c : Nat} {sink : Source} {n : Word} {err : ErrTarget} (h : rxOk s c sink n err = true) :
    ∃ ch, s.chan? s.pCh.toNat = some ch ∧ ch.chst = .ready ∧
      (s.pphase = .prRead → ∃ x xs, ch.rxfifo = x :: xs ∧ s.pE = x.bits) := by
  unfold rxOk at h
  split at h
  · cases h
  case h_2 ch hc =>
    simp only [Bool.and_eq_true, decide_eq_true_eq] at h
    obtain ⟨⟨⟨⟨rfl, hr, -⟩, -⟩, -⟩, hphase⟩ := h
    exact ⟨ch, hc, hr, fun hp => headOk_iff.mp (by simpa [hp] using hphase)⟩

theorem initOk_pi5 {s : State} {c : Nat} {baud : Word} (h : initOk s c baud = true) (hp : s.pphase = .pi5) :
    s.pCh.toNat = c ∧ baudDivisor s.params baud = .ok s.pBrg ∧
      ∃ ch, s.chan? s.pCh.toNat = some ch ∧ ch.on = true ∧ ch.rxfifo = [] ∧ ch.txbuf = [] ∧ ch.div = s.pBrg := by
  unfold initOk at h
  split at h
  · cases h
  case h_2 ch hc =>
    simp only [hp, Bool.and_eq_true, decide_eq_true_eq] at h
    obtain ⟨⟨-, rfl, hdiv⟩, hon, -, hrx, htx, -, -, hd⟩ := h
    exact ⟨rfl, hdiv, ch, hc, hon, hrx, htx, hd⟩

/-! ## The statements -/

/-- Settles O29: in PI_5 the invariant has the channel on, empty and with the divisor of the rate, and the step sets the
rest. -/
theorem initCompletionState : Obligations.InitCompletionState := by
  intro s i hinv _ hp hd
  obtain ⟨-, j, hj, hok⟩ := inProgress_of_inv hinv (by simp [hp])
  obtain rfl := Except.ok.inj (hj.symm.trans hd)
  obtain ⟨c, baud, hinit, hi⟩ := initOk_of_isInit hok (by simp [hp, PPhase.isInit])
  obtain ⟨hpc, hdiv, ch, hc, hon, hrx, htx, hbrg⟩ := initOk_pi5 hinit hp
  have hf := initOk_fphase hinit
  have hrate : ch.div.toNat = (s.params.pclkHz / baud.toNat + 8) / 16 - 1 := hbrg ▸ baudDivisor_toNat hdiv
  have hstep := (portStep_pi5 hp).trans (stepPi5_of_chan (w1 := (operandWords j).1) (w2 := (operandWords j).2) hc hf)
  refine ⟨_, { ch with txen := true, rxen := true, oerr := false, chst := .ready },
    exec_of_portStep (portTurn_of_none hf) (by simp [hp]) hstep, setChan_bstat .., ?chan, hon, rfl, rfl, rfl,
    hbrg, hrx, htx, rfl, fun c' baud' he => ?portInit, fun k' g' baud' he hg' => ?chInit⟩
  case chan => exact chan?_setChan_same _ ((chan?_congr rfl _).trans hc)
  case portInit =>
    obtain rfl | ⟨k, g, rfl, -⟩ := hi
    · cases he
      exact ⟨hpc, hrate⟩
    · cases he
  case chInit =>
    obtain rfl | ⟨k, g, rfl, hg, rfl⟩ := hi
    · cases he
    · cases he
      obtain rfl := Option.some.inj (hg.symm.trans hg')
      exact ⟨hpc, hrate⟩

/-- Settles O50: in PT_WRITE the invariant has the channel READY, so that it is on, and its buffer not full. -/
theorem transmitDiscipline : Obligations.TransmitDiscipline := by
  intro s hinv hp
  obtain ⟨hb, i, -, hok⟩ := inProgress_of_inv hinv (by simp [hp])
  obtain ⟨c, src, n, htx⟩ := txOk_of_isTx hok (by simp [hp, PPhase.isTx])
  obtain ⟨ch, hc, hr, hroom⟩ := txOk_chan htx
  obtain ⟨hon, -, -⟩ := enabled_of_ready hinv hb (by simp [hp, PPhase.isInit]) hc hr
  exact ⟨ch, hc, hon, hroom hp, by rw [regWrite_of_chan hc, writeReg_txreg_of_room s.pD hon (hroom hp)]⟩

/-- Settles O51: in PR_READ the invariant has an entry at the head of the receive FIFO whose summary bits P_E holds. -/
theorem receiveDiscipline : Obligations.ReceiveDiscipline := by
  intro s hinv hp
  obtain ⟨-, i, -, hok⟩ := inProgress_of_inv hinv (by simp [hp])
  obtain ⟨c, sink, n, err, hrx⟩ := rxOk_of_isRx hok (by simp [hp, PPhase.isRx])
  obtain ⟨ch, hc, -, hhead⟩ := rxOk_chan hrx
  obtain ⟨x, xs, hx, he⟩ := hhead hp
  exact ⟨ch, x, xs, hc, hx, he, regRead_rxreg_of_entry hc hx⟩

end Sys2Proof.Machine
end

section
/-! SUPPORT. Runs: a list of moves as one relation between states, whatever comes after it on the schedule, put together from
the single moves; and the six turns of an init (R155, R195). -/

namespace Sys2Proof.Machine

/-! ## Lists of moves -/

theorem steps_succ_of_step {s t : State} (h : step s = .next t) (k : Nat) : steps (k + 1) s = steps k t := by
  simp only [steps, h]

theorem steps_add_of_steps {a : Nat} {s t : State} (h : steps a s = .next t) (b : Nat) :
    steps (a + b) s = steps b t := by
  induction a generalizing s with
  | zero =>
    obtain rfl := Host.Outcome.next.inj h
    rw [Nat.zero_add]
  | succ a ih =>
    rw [Nat.add_right_comm]
    simp only [steps] at h ⊢
    cases hs : step s with
    | next u => exact ih (by simpa only [hs] using h)
    | fault | refused => simp [hs] at h

/-- The machine over another list of moves. -/
def State.withPending (s : State) (q : List Move) : State := { s with pending := q }

@[simp] theorem withPending_chan? (s : State) (q : List Move) (c : Nat) : (s.withPending q).chan? c = s.chan? c :=
  chan?_congr rfl c

theorem withPending_setChan (s : State) (q : List Move) (c : Nat) (ch : Channel) :
    (s.withPending q).setChan c ch = (s.setChan c ch).withPending q := by
  cases c <;> rfl

/-- The moves, listed next, take s to t and leave the rest of the schedule as it was. -/
def Runs (ms : List Move) (s t : State) : Prop :=
  ∀ q, steps ms.length (s.withPending (ms ++ q)) = .next (t.withPending q)

theorem runs_nil (s : State) : Runs [] s s := fun _ => rfl

theorem Runs.of_eq {ms ms' : List Move} {s t t' : State} (h : Runs ms s t) (hm : ms = ms') (ht : t = t') :
    Runs ms' s t' := hm ▸ ht ▸ h

theorem Runs.append {ms ms' : List Move} {s t u : State} (h : Runs ms s t) (h' : Runs ms' t u) :
    Runs (ms ++ ms') s u := by
  intro q
  rw [List.length_append, List.append_assoc, steps_add_of_steps (h (ms' ++ q)), h' q]

theorem runs_of_applyMove {m : Move} {s t : State}
    (h : ∀ q, applyMove m (s.withPending q) = .next (t.withPending q)) : Runs [m] s t :=
  fun q => steps_succ_of_step (s := s.withPending (m :: q)) ((step_of_pending rfl).trans (h q)) 0

/-- A turn of the sequencer that is a step of operation i. -/
theorem runs_of_exec {i : Instr} {s t : State} (hb : s.bstat = .busy) (hd : decode s.descriptor = .ok i)
    (h : ∀ q, exec i (s.withPending q) = .next (t.withPending q)) : Runs [.sequencer] s t :=
  runs_of_applyMove fun q => (sequencerTurn_of_decode_ok (s := s.withPending q) hb hd).trans (h q)

theorem turns_add (a b : Nat) : turns (a + b) = turns a ++ turns b := List.replicate_add ..

/-- The run from a state whose schedule begins with the moves. -/
theorem Runs.steps {ms rest : List Move} {s t : State} (h : Runs ms s t) (hp : s.pending = ms ++ rest) :
    steps ms.length s = .next (t.withPending rest) := by
  have hrun := h rest
  rwa [← hp] at hrun

/-! ## An init -/

/-- The machine in phase p of an init of channel c with divisor d, whose writes so far have left the channel x. -/
def initState (s : State) (c : Nat) (d : Divisor) (b : BState) (p : PPhase) (x : Channel) : State :=
  { s with bstat := b, pphase := p, pCh := BitVec.ofNat 8 c, pBrg := d, chans := (s.setChan c x).chans }

/-- The channel that an init leaves (R158). -/
def Channel.initialised (ch : Channel) (d : Divisor) : Channel :=
  { ch with chst := .ready, on := true, oerr := false, txen := true, rxen := true, div := d, rxfifo := [], txbuf := [] }

/-- P_CH holds a channel number that fits its byte. -/
theorem toNat_ofNat_of_lt {c : Nat} (h : c < 256) : (BitVec.ofNat 8 c).toNat = c := by simpa using h

section
variable {s : State} {i : Instr} {c : Nat} {d : Divisor} {ch : Channel} (hb : s.bstat = .busy)
  (hd : decode s.descriptor = .ok i) (hc : s.chan? c = some ch) (hlt : c < 256)

include hc hlt in
theorem initState_chan? (b : BState) (p : PPhase) (x : Channel) :
    (initState s c d b p x).chan? (BitVec.ofNat 8 c).toNat = some x := by
  rw [toNat_ofNat_of_lt hlt]
  exact (chan?_congr rfl c).trans (chan?_setChan_same x hc)

include hd hlt in
/-- A step of the init sequence that replaces channel P_CH and goes on to another phase. -/
theorem runs_initStep {b : BState} {p p' : PPhase} {x y : Channel}
    (h : ∀ q, exec i ((initState s c d .busy p x).withPending q) =
      .next (((initState s c d b p' x).withPending q).setChan (BitVec.ofNat 8 c).toNat y)) :
    Runs [.sequencer] (initState s c d .busy p x) (initState s c d b p' y) := by
  refine runs_of_exec rfl hd fun q => (h q).trans (congrArg _ ?_)
  rw [toNat_ofNat_of_lt hlt]
  exact setChan_eq_of_setChan (s := s) rfl

include hd hc hlt

/-- The five register writes take an init from PI_1 to its end. -/
theorem runs_initWrites {n : Nat} {baud : Word} (hf : s.fphase = .none)
    (hi : i = .portInit n baud ∨ i = .chInit n baud) :
    Runs (turns 5) (initState s c d .busy .pi1 ch) (initState s c d .idle .idle (ch.initialised d)) := by
  have hclauses (p : PPhase) (x : Channel) (q : List Move) :=
    initSequenceSteps ((initState s c d .busy p x).withPending q) i n baud x hi hf
      (initState_chan? (d := d) hc hlt .busy p x)
  have hpi1 (x : Channel) : Runs [.sequencer] (initState s c d .busy .pi1 x) (initState s c d .busy .pi2
      { x with on := false, rxfifo := [], txbuf := [], oerr := false }) := runs_initStep hd hlt fun q => by
    obtain ⟨h, -⟩ := hclauses .pi1 x q
    exact h rfl
  have hpi2 (x : Channel) : Runs [.sequencer] (initState s c d .busy .pi2 x) (initState s c d .busy .pi3
      { x with txen := false, rxen := false, oerr := false }) := runs_initStep hd hlt fun q => by
    obtain ⟨-, h, -⟩ := hclauses .pi2 x q
    exact h rfl
  have hpi3 (x : Channel) : Runs [.sequencer] (initState s c d .busy .pi3 x) (initState s c d .busy .pi4
      { x with div := d }) := runs_initStep hd hlt fun q => by
    obtain ⟨-, -, h, -⟩ := hclauses .pi3 x q
    exact h rfl
  have hpi4 (x : Channel) : Runs [.sequencer] (initState s c d .busy .pi4 x) (initState s c d .busy .pi5
      { x with on := true }) := runs_initStep hd hlt fun q => by
    obtain ⟨-, -, -, h, -⟩ := hclauses .pi4 x q
    exact h rfl
  have hpi5 (x : Channel) : Runs [.sequencer] (initState s c d .busy .pi5 x) (initState s c d .idle .idle
      { x with txen := true, rxen := true, oerr := false, chst := .ready }) := runs_initStep hd hlt fun q => by
    obtain ⟨-, -, -, -, h⟩ := hclauses .pi5 x q
    exact h rfl
  exact (hpi1 ch).append ((hpi2 _).append ((hpi3 _).append ((hpi4 _).append (hpi5 _))))

end

/-- Settles O30: step 1 takes the init to PI_1 with its channel as it was, and the five register writes to its end. -/
theorem initOperationsRun : Obligations.InitOperationsRun := by
  intro s i c k g baud ch rest hb hstart hd hi hle hlt hc hne h1 h2 hp
  obtain ⟨hf, hidle⟩ : s.fphase = .none ∧ s.pphase = .idle := by simpa [State.atStart] using hstart
  let d := BitVec.ofNat 16 ((s.params.pclkHz / baud.toNat + 8) / 16 - 1)
  have hself : (s.setChan c ch).chans = s.chans := by rw [setChan_self hc]
  have hstart : Runs [.sequencer] s (initState s c d .busy .pi1 ch) := by
    refine runs_of_exec hb hd fun q => ?_
    obtain ⟨hport, hch⟩ := initOperationsAccept (s.withPending q) c k g baud hstart (chan?_pos hc) hle hne h1 h2
    simp only [initState, hself, ← hb]
    obtain rfl | ⟨rfl, hg, hgc⟩ := hi
    · exact hport
    · exact hch hg hgc
  have hwrites : Runs (turns 5) (initState s c d .busy .pi1 ch) (initState s c d .idle .idle (ch.initialised d)) := by
    obtain rfl | ⟨rfl, -, -⟩ := hi
    · exact runs_initWrites hd hc hlt hf (.inl rfl)
    · exact runs_initWrites hd hc hlt hf (.inr rfl)
  refine ((hstart.append hwrites).steps hp).trans (congrArg _ ?_)
  refine Eq.trans ?_ (setChan_eq_of_chans (s := s) ?_).symm
  · simp only [initState, ← hidle]
    rfl
  · rfl

end Sys2Proof.Machine
end

section
/-! SUPPORT. The runs of the port engine that move one byte, whatever operation they belong to, under the schedules TX-prompt
and JIT (spec/95_test_vectors.md): poll, fetch and write with the send that follows (R159, R96), and arrival, poll, merge, read
and store (R97, R164, R169, R170). -/

namespace Sys2Proof.Machine

/-- Operation i is in progress, and its next step is the port engine's. -/
structure Executing (i : Instr) (s : State) : Prop where
  busy : s.bstat = .busy
  decodes : decode s.descriptor = .ok i
  portTurn : s.portTurn

theorem runs_of_portStep {i : Instr} {s t : State} (h : Executing i s) (hp : s.pphase ≠ .idle)
    (hstep : ∀ q, portStep (operandWords i).1 (operandWords i).2 (s.withPending q) = .ok (t.withPending q)) :
    Runs [.sequencer] s t :=
  runs_of_exec h.busy h.decodes fun q => exec_of_portStep (s := s.withPending q) h.portTurn hp (hstep q)

/-! ## Sending a byte -/

/-- L_TX empties a buffer that holds one byte onto the wire. -/
theorem lineTx_of_single {ch : Channel} (b : Byte) (hen : ch.enabled) (hbuf : ch.txbuf = []) :
    Channel.lineTx { ch with txbuf := [b] } = { ch with wireOut := ch.wireOut ++ [b] } := by
  obtain ⟨hon, htx, -⟩ := hen
  rw [lineTx_enabled (ch := { ch with txbuf := [b] }) (b := b) (bs := []) hon htx rfl, ← hbuf]

section
variable {i : Instr} {s t : State} {c : Nat} {ch : Channel} (h : Executing i s) (hpc : s.pCh.toNat = c)
  (hc : s.chan? c = some ch)
include h hpc hc

omit hc hpc in
theorem runs_ptFetch {a : Word} (hp : s.pphase = .ptFetch) (hs : s.pSrc = .mem a)
    (hlt : byteAddr a s.pIdx < 4294967296) :
    Runs [.sequencer] s { s with pD := Memory.read s.mem (byteAddr a s.pIdx), pphase := .ptWrite } := by
  refine runs_of_portStep h (by simp [hp]) fun q => ?_
  rw [portStep_ptFetch_of_mem (s := s.withPending q) hp hs]
  exact exceptBind_of_ok (memRead_of_lt hlt)

theorem runs_ptPoll {a : Word} (hp : s.pphase = .ptPoll) (hs : s.pSrc = .mem a)
    (hroom : ch.txbuf.length ≠ s.params.txDepth) : Runs [.sequencer] s { s with pphase := .ptFetch } := by
  subst hpc
  refine runs_of_portStep h (by simp [hp]) fun q => ?_
  rw [portStep_ptPoll (s := s.withPending q) hp,
    stepPtPoll_of_room (s := s.withPending q) ((withPending_chan? ..).trans hc) hs hroom]
  rfl

/-- A poll that finds room, and the fetch of the byte. -/
theorem runs_fetchByte {a : Word} (hp : s.pphase = .ptPoll) (hs : s.pSrc = .mem a)
    (hroom : ch.txbuf.length ≠ s.params.txDepth) (hlt : byteAddr a s.pIdx < 4294967296) :
    Runs (turns 2) s { s with pD := Memory.read s.mem (byteAddr a s.pIdx), pphase := .ptWrite } :=
  (runs_ptPoll h hpc hc hp hs hroom).append
    (runs_ptFetch (s := { s with pphase := .ptFetch }) ⟨h.busy, h.decodes, h.portTurn⟩ rfl hs hlt)

/-- The write of the byte into an empty transmit buffer, after which the transfer goes on to t, and its send. -/
theorem runs_writeByte (hp : s.pphase = .ptWrite) (hen : ch.enabled) (hbuf : ch.txbuf = [])
    (hdepth : 1 ≤ s.params.txDepth)
    (hadv : ∀ q, advance .ptPoll (operandWords i).1 (operandWords i).2
      (State.withPending { s with chans := (s.setChan c { ch with txbuf := [s.pD] }).chans } q) = .ok (t.withPending q)) :
    Runs [.sequencer, .lineTx c] s
      { t with chans := (s.setChan c { ch with wireOut := ch.wireOut ++ [s.pD] }).chans } := by
  subst hpc
  have hon : ch.on = true := hen.1
  have hroom : ch.txbuf.length < s.params.txDepth := hbuf ▸ hdepth
  have htc : t.chans = (s.setChan s.pCh.toNat { ch with txbuf := [s.pD] }).chans := (advance_frame (hadv [])).chans
  have hwrite : Runs [.sequencer] s t := by
    refine runs_of_portStep h (by simp [hp]) fun q => ?_
    rw [portStep_ptWrite (s := s.withPending q) hp,
      stepPtWrite_of_room (s := s.withPending q) ((withPending_chan? ..).trans hc) hon hroom, ← hadv q, hbuf,
      withPending_setChan, setChan_eq s]
    rfl
  have hsend : Runs [.lineTx s.pCh.toNat] t
      { t with chans := (s.setChan s.pCh.toNat { ch with wireOut := ch.wireOut ++ [s.pD] }).chans } := by
    have htch : t.chan? s.pCh.toNat = some { ch with txbuf := [s.pD] } :=
      (chan?_congr htc _).trans (chan?_setChan_same _ hc)
    refine runs_of_applyMove fun q => ?_
    rw [applyMove_lineTx, lineTx_of_chan ((withPending_chan? t q _).trans htch),
      lineTx_of_single s.pD hen hbuf, withPending_setChan,
      setChan_eq_of_setChan htc]
  exact hwrite.append hsend

end

/-! ## Receiving a byte -/

theorem mergeErrors_withPending (err : Byte) (s : State) (q : List Move) :
    mergeErrors err (s.withPending q) = (mergeErrors err s).withPending q := by
  simp only [mergeErrors, State.withPending]
  cases s.pErr <;> rfl

section
variable {i : Instr} {s t : State} {c : Nat} {ch : Channel} {x : RxEntry} (h : Executing i s) (hpc : s.pCh.toNat = c)
  (hc : s.chan? c = some ch)

include hc in
/-- The arrival of a byte at an empty receive FIFO. -/
theorem runs_arrival (hen : ch.enabled) (ho : ch.oerr = false) (hf : ch.rxfifo = []) (hdepth : 1 ≤ s.params.rxDepth) :
    Runs [.lineRx c x.data x.pe x.fe] s { s with chans := (s.setChan c { ch with rxfifo := [x] }).chans } := by
  obtain ⟨hon, -, hrx⟩ := hen
  refine runs_of_applyMove fun q => ?_
  rw [applyMove_lineRx, lineRx_of_chan ((withPending_chan? s q c).trans hc),
    lineRx_of_room ⟨hon, hrx, ho⟩ (hf ▸ hdepth), hf, withPending_setChan, setChan_eq]
  rfl

include h hpc hc

/-- The poll of the entry at the head of the receive FIFO. -/
theorem runs_prPoll {xs : List RxEntry} (hp : s.pphase = .prPoll) (hx : ch.rxfifo = x :: xs) :
    Runs [.sequencer] s (mergeErrors x.bits { s with pS := ch.statusWord s.params.txDepth }) := by
  subst hpc
  refine runs_of_portStep h (by simp [hp]) fun q => ?_
  rw [portStep_prPoll (s := s.withPending q) hp,
    stepPrPoll_of_entry (s := s.withPending q) ((withPending_chan? ..).trans hc) hx, ← mergeErrors_withPending]
  rfl

/-- The read of that entry, where it goes to a buffer. -/
theorem runs_prRead {xs : List RxEntry} {b : Word} (hp : s.pphase = .prRead) (hx : ch.rxfifo = x :: xs)
    (hs : s.pSrc = .mem b) :
    Runs [.sequencer] s { s with
      chans := (s.setChan c { ch with rxfifo := xs }).chans, pD := x.data, pphase := .prStore } := by
  subst hpc
  refine runs_of_portStep h (by simp [hp]) fun q => ?_
  rw [portStep_prRead (s := s.withPending q) hp,
    stepPrRead_of_entry_mem (s := s.withPending q) ((withPending_chan? ..).trans hc) hx hs, withPending_setChan,
    setChan_eq]
  rfl

/-- The read of that entry, where it is dropped and the transfer goes on to t. -/
theorem runs_prRead_null {xs : List RxEntry} (hp : s.pphase = .prRead) (hx : ch.rxfifo = x :: xs) (hs : s.pSrc = .null)
    (hadv : ∀ q, advance .prPoll (operandWords i).1 (operandWords i).2
      (State.withPending { s with chans := (s.setChan c { ch with rxfifo := xs }).chans, pD := x.data } q) =
        .ok (t.withPending q)) :
    Runs [.sequencer] s t := by
  subst hpc
  refine runs_of_portStep h (by simp [hp]) fun q => ?_
  rw [portStep_prRead (s := s.withPending q) hp,
    stepPrRead_of_entry_null (s := s.withPending q) ((withPending_chan? ..).trans hc) hx hs, ← hadv q,
    withPending_setChan, setChan_eq]
  rfl

omit hpc hc

theorem runs_prStore {b : Word} (hp : s.pphase = .prStore) (hs : s.pSrc = .mem b)
    (hlt : byteAddr b s.pIdx < 4294967296)
    (hadv : ∀ q, advance .prPoll (operandWords i).1 (operandWords i).2
      (State.withPending { s with mem := Memory.write s.mem (byteAddr b s.pIdx) s.pD } q) = .ok (t.withPending q)) :
    Runs [.sequencer] s t := by
  refine runs_of_portStep h (by simp [hp]) fun q => ?_
  rw [portStep_prStore_of_mem (s := s.withPending q) hp hs, ← hadv q]
  exact exceptBind_of_ok (memWrite_of_lt _ hlt)

theorem runs_prMrd {e : Word} (hp : s.pphase = .prMrd) (he : s.pErr = .mem e) :
    Runs [.sequencer] s { s with pD := Memory.read s.mem e.toNat, pphase := .prMwr } := by
  refine runs_of_portStep h (by simp [hp]) fun q => ?_
  rw [portStep_prMrd_of_mem (s := s.withPending q) hp he]
  exact exceptBind_of_ok (memRead_of_lt e.isLt)

theorem runs_prMwr {e : Word} (hp : s.pphase = .prMwr) (he : s.pErr = .mem e) :
    Runs [.sequencer] s { s with mem := Memory.write s.mem e.toNat (s.pD ||| s.pE), pphase := .prRead } := by
  refine runs_of_portStep h (by simp [hp]) fun q => ?_
  rw [portStep_prMwr_of_mem (s := s.withPending q) hp he]
  exact exceptBind_of_ok (memWrite_of_lt _ e.isLt)

/-- The merge of P_E into the caller's error byte. -/
theorem runs_mergeByte {e : Word} (hp : s.pphase = .prMrd) (he : s.pErr = .mem e) :
    Runs (turns 2) s { s with
      pD := Memory.read s.mem e.toNat
      mem := Memory.write s.mem e.toNat (Memory.read s.mem e.toNat ||| s.pE)
      pphase := .prRead } :=
  (runs_prMrd h hp he).append
    (runs_prMwr (s := { s with pD := Memory.read s.mem e.toNat, pphase := .prMwr })
      ⟨h.busy, h.decodes, h.portTurn⟩ rfl he)

end

end Sys2Proof.Machine
end

section
/-! SUPPORT. Whole transfers of the port driver: PORT_TX under TX-prompt and PORT_RX under JIT, by induction on the bytes still
to come (R159, R164, R234; spec/95_test_vectors.md). -/

namespace Sys2Proof.Machine

/-! ## A transfer after some of its bytes -/

/-- After k bytes of n the operation is over if those are all, and otherwise still as u. -/
def afterBytes (n : Word) (k : Nat) (u : State) : State :=
  if k = n.toNat then { u with pphase := .idle, bstat := .idle } else u

theorem afterBytes_of_lt {n : Word} {k : Nat} {u : State} (h : k < n.toNat) : afterBytes n k u = u :=
  if_neg (Nat.ne_of_lt h)

theorem afterBytes_of_all {n : Word} {u : State} :
    afterBytes n n.toNat u = { u with pphase := .idle, bstat := .idle } := if_pos rfl

theorem afterBytes_zero (u : State) : afterBytes 0#32 0 u = { u with pphase := .idle, bstat := .idle } := rfl

theorem afterBytes_of_ne_zero {n : Word} (h : n ≠ 0#32) (u : State) : afterBytes n 0 u = u :=
  afterBytes_of_lt (BitVec.lt_def.mp (word_pos.mpr h))

theorem afterBytes_withPending (n : Word) (k : Nat) (u : State) (q : List Move) :
    (afterBytes n k u).withPending q = afterBytes n k (u.withPending q) := apply_ite (State.withPending · q) _ _ _

theorem afterBytes_withChans (n : Word) (k : Nat) (u : State) (l : List Channel) :
    { afterBytes n k u with chans := l } = afterBytes n k { u with chans := l } := by
  unfold afterBytes
  split <;> rfl

/-- The index register after k bytes. -/
theorem ofNat_add_one_eq_iff {n : Word} {k : Nat} (h : k < n.toNat) :
    BitVec.ofNat 32 k + 1#32 = n ↔ k + 1 = n.toNat := by
  have := n.isLt
  rw [← BitVec.toNat_inj, BitVec.toNat_add, BitVec.toNat_ofNat, BitVec.toNat_ofNat]
  omega

/-- One byte done, of a transfer that is an operation of its own. -/
theorem advance_eq_afterBytes {poll : PPhase} {w1 w2 n : Word} {u : State} {k : Nat} (hf : u.fphase = .none)
    (hlen : u.pLen = n) (hidx : u.pIdx = BitVec.ofNat 32 k) (hlt : k < n.toNat) (q : List Move) :
    advance poll w1 w2 (u.withPending q) =
      .ok ((afterBytes n (k + 1) { u with pIdx := BitVec.ofNat 32 (k + 1), pphase := poll }).withPending q) := by
  have hnext : u.pIdx + 1#32 = BitVec.ofNat 32 (k + 1) := by rw [hidx, BitVec.ofNat_add]
  have hlast : u.pIdx + 1#32 = u.pLen ↔ k + 1 = n.toNat := by rw [hidx, hlen, ofNat_add_one_eq_iff hlt]
  rw [advance_of_none (s := u.withPending q) hf, afterBytes_withPending]
  exact congrArg _ (if_congr hlast (by rw [← hnext]; rfl) (by rw [← hnext]; rfl))

theorem byteAddr_ofNat {a n : Word} {k : Nat} (h : k < n.toNat) : byteAddr a (BitVec.ofNat 32 k) = a.toNat + k := by
  have := n.isLt
  rw [byteAddr, BitVec.toNat_ofNat, Nat.mod_eq_of_lt (by omega)]

/-- The bytes of an admitted range that is not empty lie inside the address space. -/
theorem byte_lt_of_admitted {p : Params} {a n k : Nat} (h : admitted p a n = true) (hk : k < n) : a + k < 4294967296 := by
  obtain ⟨hle, -⟩ := (admitted_of_pos (by omega)).mp h
  omega

/-- A READY channel of a legal state at the start of an operation: it exists, fits P_CH and is enabled. -/
theorem channel_at_start {s : State} {c : Nat} {ch : Channel} (hinv : Inv s) (hb : s.bstat = .busy)
    (hstart : s.atStart = true) (hc : s.chan? c = some ch) (hr : ch.chst = .ready) :
    1 ≤ c ∧ c ≤ s.params.nChannels ∧ c < 256 ∧ s.isReady c = true ∧ ch.enabled ∧ 1 ≤ s.params.rxDepth ∧
      1 ≤ s.params.txDepth := by
  obtain ⟨-, hp⟩ : s.fphase = .none ∧ s.pphase = .idle := by simpa [State.atStart] using hstart
  have hen := enabled_of_ready hinv hb (by simp [hp, PPhase.isInit]) hc hr
  obtain ⟨⟨⟨-, h255, -, -, -, -, hrxd, htxd⟩, hlen, -⟩, -⟩ := hinv
  have hle := hlen ▸ chan?_le hc
  exact ⟨chan?_pos hc, hle, by omega, isReady_iff.mpr ⟨ch, hc, hr⟩, hen, hrxd, htxd⟩

/-! ## The last move of each byte -/

section
variable {i : Instr} {s : State} {n : Word} {k : Nat} (h : Executing i s) (hf : s.fphase = .none) (hlen : s.pLen = n)
  (hidx : s.pIdx = BitVec.ofNat 32 k) (hk : k < n.toNat)
include h hf hlen hidx hk

theorem runs_writeByte_of_port {c : Nat} {ch : Channel} (hpc : s.pCh.toNat = c) (hc : s.chan? c = some ch)
    (hp : s.pphase = .ptWrite) (hen : ch.enabled) (hbuf : ch.txbuf = []) (hdepth : 1 ≤ s.params.txDepth) :
    Runs [.sequencer, .lineTx c] s (afterBytes n (k + 1) { s with
      pIdx := BitVec.ofNat 32 (k + 1), pphase := .ptPoll
      chans := (s.setChan c { ch with wireOut := ch.wireOut ++ [s.pD] }).chans }) := by
  have hrun := runs_writeByte h hpc hc hp hen hbuf hdepth
    (advance_eq_afterBytes (u := { s with chans := (s.setChan c { ch with txbuf := [s.pD] }).chans }) hf hlen hidx hk)
  rwa [afterBytes_withChans] at hrun

theorem runs_prStore_of_port {b : Word} (hp : s.pphase = .prStore) (hs : s.pSrc = .mem b)
    (hlt : byteAddr b s.pIdx < 4294967296) :
    Runs [.sequencer] s (afterBytes n (k + 1) { s with
      pIdx := BitVec.ofNat 32 (k + 1), pphase := .prPoll, mem := Memory.write s.mem (byteAddr b s.pIdx) s.pD }) :=
  runs_prStore h hp hs hlt
    (advance_eq_afterBytes (u := { s with mem := Memory.write s.mem (byteAddr b s.pIdx) s.pD }) hf hlen hidx hk)

theorem runs_prRead_null_of_port {c : Nat} {ch : Channel} {x : RxEntry} {xs : List RxEntry} (hpc : s.pCh.toNat = c)
    (hc : s.chan? c = some ch) (hp : s.pphase = .prRead) (hx : ch.rxfifo = x :: xs) (hs : s.pSrc = .null) :
    Runs [.sequencer] s (afterBytes n (k + 1) { s with
      pIdx := BitVec.ofNat 32 (k + 1), pphase := .prPoll, pD := x.data
      chans := (s.setChan c { ch with rxfifo := xs }).chans }) :=
  runs_prRead_null h hpc hc hp hx hs
    (advance_eq_afterBytes (u := { s with chans := (s.setChan c { ch with rxfifo := xs }).chans, pD := x.data })
      hf hlen hidx hk)

end

/-! ## PORT_TX -/

theorem readRange_succ (m : List Host.Cell) (a k : Nat) :
    Memory.readRange m a (k + 1) = Memory.readRange m a k ++ [Memory.read m (a + k)] := by
  simp [Memory.readRange, List.range_succ]

/-- The channel of a PORT_TX that has sent the first k bytes from address a. -/
def Channel.sent (ch : Channel) (m : List Host.Cell) (a : Word) (k : Nat) : Channel :=
  { ch with wireOut := ch.wireOut ++ Memory.readRange m a.toNat k }

/-- A PORT_TX on channel c of n bytes from address a that polls for the byte of index k, the bytes before it sent and d the
last of them. -/
def txPolling (s : State) (c : Nat) (a n : Word) (ch : Channel) (k : Nat) (d : Byte) : State :=
  { s with
    pphase := .ptPoll, pCh := BitVec.ofNat 8 c, pSrc := .mem a, pLen := n, pIdx := BitVec.ofNat 32 k, pD := d
    chans := (s.setChan c (ch.sent s.mem a k)).chans }

section
variable {s : State} {c : Nat} {a n : Word} {ch : Channel} (hb : s.bstat = .busy) (hf : s.fphase = .none)
  (hd : decode s.descriptor = .ok (.portTx c a n)) (hc : s.chan? c = some ch) (hlt : c < 256) (hen : ch.enabled)
  (hbuf : ch.txbuf = []) (hdepth : 1 ≤ s.params.txDepth) (hadm : admitted s.params a.toNat n.toNat = true)
include hb hf hd hc hlt hen hbuf hdepth hadm

/-- One byte under TX-prompt: poll, fetch, write and send. -/
theorem runs_portTx_byte {k : Nat} (hk : k < n.toNat) (d : Byte) :
    Runs (turns 3 ++ [.lineTx c]) (txPolling s c a n ch k d)
      (afterBytes n (k + 1) (txPolling s c a n ch (k + 1) (Memory.read s.mem (a.toNat + k)))) := by
  have haddr : byteAddr a (txPolling s c a n ch k d).pIdx = a.toNat + k := byteAddr_ofNat hk
  have hpc : (txPolling s c a n ch k d).pCh.toNat = c := toNat_ofNat_of_lt hlt
  have hchan : (txPolling s c a n ch k d).chan? c = some (ch.sent s.mem a k) :=
    (chan?_congr rfl c).trans (chan?_setChan_same _ hc)
  have hroom : (ch.sent s.mem a k).txbuf.length ≠ s.params.txDepth := by
    simp only [Channel.sent, hbuf, List.length_nil]
    omega
  have hfetch := runs_fetchByte (s := txPolling s c a n ch k d) ⟨hb, hd, portTurn_of_none hf⟩ hpc hchan rfl rfl hroom
    (haddr ▸ byte_lt_of_admitted hadm hk)
  rw [haddr] at hfetch
  have hwrite := runs_writeByte_of_port
    (s := { txPolling s c a n ch k d with pD := Memory.read s.mem (a.toNat + k), pphase := .ptWrite })
    ⟨hb, hd, portTurn_of_none hf⟩ hf rfl rfl hk hpc hchan rfl hen hbuf hdepth
  have hsent : (State.setChan { txPolling s c a n ch k d with
        pD := Memory.read s.mem (a.toNat + k), pphase := .ptWrite } c
      { ch.sent s.mem a k with wireOut := (ch.sent s.mem a k).wireOut ++ [Memory.read s.mem (a.toNat + k)] }).chans =
      (s.setChan c (ch.sent s.mem a (k + 1))).chans := by
    simp only [Channel.sent, readRange_succ, ← List.append_assoc]
    exact setChan_chans_of_setChan rfl
  rw [hsent] at hwrite
  exact hfetch.append hwrite

theorem runs_portTx_bytes (m : Nat) {k : Nat} (hk : k + m = n.toNat) (d : Byte) :
    ∃ d', Runs (promptBytes c 3 m) (afterBytes n k (txPolling s c a n ch k d))
      (afterBytes n n.toNat (txPolling s c a n ch n.toNat d')) := by
  induction m generalizing k d with
  | zero =>
    obtain rfl : k = n.toNat := hk
    exact ⟨d, runs_nil _⟩
  | succ m ih =>
    obtain ⟨d', hrest⟩ := ih (k := k + 1) (by omega) (Memory.read s.mem (a.toNat + k))
    rw [afterBytes_of_lt (by omega)]
    exact ⟨d', (runs_portTx_byte hb hf hd hc hlt hen hbuf hdepth hadm (by omega) d).append hrest⟩

end

theorem promptBytes_length (c k n : Nat) : (promptBytes c k n).length = (k + 1) * n := by
  induction n with
  | zero => rfl
  | succ n ih =>
    simp only [promptBytes, turns, List.length_append, List.length_replicate, List.length_singleton, ih]
    ring

/-- Step 1 of a PORT_TX that is accepted; one of length 0 has then sent all its bytes. -/
theorem runs_portTx_start {s : State} {c : Nat} {a n : Word} {ch : Channel} (hb : s.bstat = .busy)
    (hstart : s.atStart = true) (hd : decode s.descriptor = .ok (.portTx c a n)) (hc : s.chan? c = some ch)
    (hle : c ≤ s.params.nChannels) (hready : s.isReady c = true) (hnull : n ≠ 0#32 → a ≠ 0#32)
    (hadm : admitted s.params a.toNat n.toNat = true) :
    Runs (turns 1) s (afterBytes n 0 (txPolling s c a n ch 0 s.pD)) := by
  obtain ⟨-, hp⟩ : s.fphase = .none ∧ s.pphase = .idle := by simpa [State.atStart] using hstart
  have hself : (s.setChan c (ch.sent s.mem a 0)).chans = s.chans := by
    simp only [Channel.sent, Memory.readRange_zero, List.append_nil, setChan_self hc]
  refine runs_of_exec hb hd fun q => ?_
  obtain ⟨hsome, hzero⟩ := portTxAccepts (s.withPending q) c a n hstart (chan?_pos hc) hle
    ((isReady_congr rfl c).trans hready)
  by_cases hn : n = 0#32
  · subst hn
    rw [hzero rfl, afterBytes_zero, txPolling, hself, ← hp]
    rfl
  · rw [hsome hn (hnull hn) hadm, afterBytes_of_ne_zero hn, txPolling, hself]
    rfl

/-- Settles O33: step 1, and then the bytes one by one. -/
theorem portTxRun : Obligations.PortTxRun := by
  intro s c a n ch rest hinv hb hstart hd hc hr hbuf hnull hadm hp
  obtain ⟨-, hle, hlt, hready, hen, -, hdepth⟩ := channel_at_start hinv hb hstart hc hr
  obtain ⟨hf, -⟩ : s.fphase = .none ∧ s.pphase = .idle := by simpa [State.atStart] using hstart
  have hfirst := runs_portTx_start hb hstart hd hc hle hready hnull hadm
  obtain ⟨d, hbytes⟩ := runs_portTx_bytes hb hf hd hc hlt hen hbuf hdepth hadm n.toNat (k := 0) (Nat.zero_add _) s.pD
  have hlen : (turns 1 ++ promptBytes c 3 n.toNat).length = 1 + 4 * n.toNat := by
    rw [List.length_append, promptBytes_length]
    rfl
  have hrun := (hfirst.append hbytes).steps hp
  rw [hlen, afterBytes_of_all] at hrun
  refine ⟨_, hrun, rfl, rfl, rfl, ?own, fun c' hne => ?other, rfl, rfl, rfl⟩
  case own => exact (chan?_congr rfl c).trans (chan?_setChan_same _ hc)
  case other => exact (chan?_congr rfl c').trans (chan?_setChan_other _ hne)

end Sys2Proof.Machine
end

section
/-! SUPPORT. PORT_RX under JIT: each arrival is polled, merged into the caller's error byte, read and stored, by induction on
the arrivals (R164, R167, R169, R170, R234; spec/95_test_vectors.md). -/

namespace Sys2Proof.Machine

/-! ## The operands of a PORT_RX -/

theorem sinkOf_null : sinkOf 0#32 = .null := rfl

theorem sinkOf_of_ne {b : Word} (h : b ≠ 0#32) : sinkOf b = .mem b := if_neg h

theorem errTargetOf_null : errTargetOf 0#32 = .none := rfl

theorem errTargetOf_of_ne {e : Word} (h : e ≠ 0#32) : errTargetOf e = .mem e := if_neg h

theorem errTargetOf_ne_sum (e : Word) : errTargetOf e ≠ .sum := by
  unfold errTargetOf
  split <;> simp

/-! ## One arrival -/

/-- Nothing of the arrival has to be merged into the error byte e. -/
abbrev NoMerge (e : Word) (x : RxEntry) : Prop := e = 0#32 ∨ x.bits = 0#8

/-- Caller memory after the errors of an arrival have been merged. -/
def mergeByte (e : Word) (m : List Host.Cell) (x : RxEntry) : List Host.Cell :=
  if NoMerge e x then m else Memory.write m e.toNat (Memory.read m e.toNat ||| x.bits)

/-- Caller memory after an arrival of index k has been stored. -/
def storeByte (b : Word) (k : Nat) (m : List Host.Cell) (x : RxEntry) : List Host.Cell :=
  if b = 0#32 then m else Memory.write m (b.toNat + k) x.data

theorem receiveByte_eq (b e : Word) (k : Nat) (m : List Host.Cell) (x : RxEntry) :
    receiveByte b e k m x = storeByte b k (mergeByte e m x) x := rfl

/-- The turns of an arrival: its poll and merge, and its read and store. -/
theorem turns_receiveSteps (b e : Word) (x : RxEntry) :
    turns (receiveSteps b e x) =
      turns (1 + if NoMerge e x then 0 else 2) ++ turns (1 + if b = 0#32 then 0 else 1) := by
  have hsteps : receiveSteps b e x = 2 + (if NoMerge e x then 0 else 2) + (if b = 0#32 then 0 else 1) := rfl
  rw [← turns_add, hsteps]
  congr 1
  omega

/-- A PORT_RX on channel c that polls for the byte of index k, with caller memory m and w, d and p left in P_S, P_D and P_E by
the bytes before it. -/
def rxPolling (s : State) (c : Nat) (b n e : Word) (k : Nat) (m : List Host.Cell) (w : Word) (d p : Byte) : State :=
  { s with
    pphase := .prPoll, pCh := BitVec.ofNat 8 c, pSrc := sinkOf b, pLen := n, pIdx := BitVec.ofNat 32 k
    pErr := errTargetOf e, mem := m, pS := w, pD := d, pE := p }

/-- The same, once the entry x has arrived in the empty receive FIFO of the channel ch. -/
def rxArrived (s : State) (c : Nat) (b n e : Word) (ch : Channel) (x : RxEntry) (k : Nat) (m : List Host.Cell) (w : Word)
    (d p : Byte) : State :=
  { rxPolling s c b n e k m w d p with chans := (s.setChan c { ch with rxfifo := [x] }).chans }

/-- The same, about to read the entry. -/
def rxReading (s : State) (c : Nat) (b n e : Word) (ch : Channel) (x : RxEntry) (k : Nat) (m : List Host.Cell) (w : Word)
    (d : Byte) : State :=
  { rxArrived s c b n e ch x k m w d x.bits with pphase := .prRead }

section
variable {s : State} {c : Nat} {b n e : Word} {ch : Channel} (hb : s.bstat = .busy) (hf : s.fphase = .none)
  (hd : decode s.descriptor = .ok (.portRx c b n e)) (hc : s.chan? c = some ch) (hlt : c < 256)

include hc in
theorem rxArrived_chan? (x : RxEntry) (k : Nat) (m : List Host.Cell) (w : Word) (d p : Byte) :
    (rxArrived s c b n e ch x k m w d p).chan? c = some { ch with rxfifo := [x] } :=
  (chan?_congr rfl c).trans (chan?_setChan_same _ hc)

include hc in
theorem runs_rxArrived (hen : ch.enabled) (ho : ch.oerr = false) (hx : ch.rxfifo = []) (hdepth : 1 ≤ s.params.rxDepth)
    (x : RxEntry) (k : Nat) (m : List Host.Cell) (w : Word) (d p : Byte) :
    Runs [.lineRx c x.data x.pe x.fe] (rxPolling s c b n e k m w d p) (rxArrived s c b n e ch x k m w d p) := by
  have hrun := runs_arrival (s := rxPolling s c b n e k m w d p) (x := x) ((chan?_congr rfl c).trans hc) hen ho hx hdepth
  rwa [setChan_chans_congr (s := s) (t := rxPolling s c b n e k m w d p) rfl] at hrun

include hb hf hd hc hlt

/-- The poll of the entry and the merge of its errors. -/
theorem runs_rxReading (x : RxEntry) (k : Nat) (m : List Host.Cell) (w : Word) (d p : Byte) :
    ∃ w' d', Runs (turns (1 + if NoMerge e x then 0 else 2)) (rxArrived s c b n e ch x k m w d p)
      (rxReading s c b n e ch x k (mergeByte e m x) w' d') := by
  obtain ⟨w', hpoll⟩ : ∃ w', Runs [.sequencer] (rxArrived s c b n e ch x k m w d p)
      (mergeErrors x.bits (rxArrived s c b n e ch x k m w' d p)) :=
    ⟨_, runs_prPoll ⟨hb, hd, portTurn_of_none hf⟩ (toNat_ofNat_of_lt hlt) (rxArrived_chan? hc x k m w d p) rfl rfl⟩
  by_cases hno : NoMerge e x
  case pos =>
    have hnone : errTargetOf e = .none ∨ x.bits = 0#8 := hno.imp_left fun he => by rw [he, errTargetOf_null]
    rw [mergeErrors_of_no_merge (errTargetOf_ne_sum e) hnone] at hpoll
    rw [if_pos hno, mergeByte, if_pos hno]
    exact ⟨w', d, hpoll⟩
  case neg =>
    obtain ⟨he, hbits⟩ := not_or.mp hno
    have hmem : errTargetOf e = .mem e := errTargetOf_of_ne he
    rw [mergeErrors_of_merge hmem hbits] at hpoll
    have hmerge := runs_mergeByte (s := { rxArrived s c b n e ch x k m w' d x.bits with pphase := .prMrd })
      ⟨hb, hd, portTurn_of_none hf⟩ rfl hmem
    rw [if_neg hno, mergeByte, if_neg hno]
    exact ⟨w', _, hpoll.append hmerge⟩

/-- The read of the entry, which leaves the channel as it was before the arrival, and its store. -/
theorem runs_rxDone (hx : ch.rxfifo = []) {k : Nat} (hk : k < n.toNat)
    (hadm : b ≠ 0#32 → admitted s.params b.toNat n.toNat = true) (x : RxEntry) (m : List Host.Cell) (w : Word)
    (d : Byte) :
    Runs (turns (1 + if b = 0#32 then 0 else 1)) (rxReading s c b n e ch x k m w d)
      (afterBytes n (k + 1) (rxPolling s c b n e (k + 1) (storeByte b k m x) w x.data x.bits)) := by
  have hexec : Executing (.portRx c b n e) (rxReading s c b n e ch x k m w d) := ⟨hb, hd, portTurn_of_none hf⟩
  have hpc : (rxReading s c b n e ch x k m w d).pCh.toNat = c := toNat_ofNat_of_lt hlt
  have hchan : (rxReading s c b n e ch x k m w d).chan? c = some { ch with rxfifo := [x] } :=
    (chan?_congr rfl c).trans (chan?_setChan_same _ hc)
  have hback : ((rxReading s c b n e ch x k m w d).setChan c { ch with rxfifo := [] }).chans = s.chans := by
    have hempty : { ch with rxfifo := [] } = ch := by rw [← hx]
    rw [setChan_chans_of_setChan (s := s) (t := rxReading s c b n e ch x k m w d) rfl, hempty, setChan_self hc]
  by_cases hb0 : b = 0#32
  case pos =>
    have hnull : sinkOf b = .null := by rw [hb0, sinkOf_null]
    have hread := runs_prRead_null_of_port hexec hf rfl rfl hk hpc hchan rfl rfl hnull
    rw [hback] at hread
    rw [if_pos hb0, storeByte, if_pos hb0]
    exact hread
  case neg =>
    have hmem : sinkOf b = .mem b := sinkOf_of_ne hb0
    have haddr := byteAddr_ofNat (a := b) hk
    have hread := runs_prRead hexec hpc hchan rfl rfl hmem
    rw [hback] at hread
    have hstore := runs_prStore_of_port (s := { rxReading s c b n e ch x k m w d with
        chans := s.chans, pD := x.data, pphase := .prStore }) ⟨hb, hd, portTurn_of_none hf⟩ hf rfl rfl hk rfl hmem
      (haddr ▸ byte_lt_of_admitted (hadm hb0) hk)
    rw [if_neg hb0, storeByte, if_neg hb0, ← haddr]
    exact hread.append hstore

/-- All the arrivals still to come, from index k on. -/
theorem runs_portRx_bytes (hen : ch.enabled) (ho : ch.oerr = false) (hx : ch.rxfifo = [])
    (hdepth : 1 ≤ s.params.rxDepth) (hadm : b ≠ 0#32 → admitted s.params b.toNat n.toNat = true) (es : List RxEntry)
    {k : Nat} (hk : k + es.length = n.toNat) (m : List Host.Cell) (w : Word) (d p : Byte) :
    ∃ w' d' p', Runs (jitBytes c (receiveSteps b e) es) (afterBytes n k (rxPolling s c b n e k m w d p))
      (afterBytes n n.toNat (rxPolling s c b n e n.toNat (receiveBytes b e k m es) w' d' p')) := by
  induction es generalizing k m w d p with
  | nil =>
    obtain rfl : k = n.toNat := hk
    exact ⟨w, d, p, runs_nil _⟩
  | cons x es ih =>
    have hlen : k + 1 + es.length = n.toNat := by rw [← hk, List.length_cons]; omega
    have hlt' : k < n.toNat := by omega
    obtain ⟨w', d', hpoll⟩ := runs_rxReading hb hf hd hc hlt x k m w d p
    have harrival := runs_rxArrived (b := b) (n := n) (e := e) hc hen ho hx hdepth x k m w d p
    have hdone := runs_rxDone hb hf hd hc hlt hx hlt' hadm x (mergeByte e m x) w' d'
    rw [← receiveByte_eq] at hdone
    obtain ⟨w'', d'', p'', hrest⟩ := ih hlen (receiveByte b e k m x) w' x.data x.bits
    rw [afterBytes_of_lt hlt']
    refine ⟨w'', d'', p'', ((harrival.append (hpoll.append hdone)).append hrest).of_eq ?_ rfl⟩
    rw [jitBytes, turns_receiveSteps]
    rfl

end

/-- Step 1 of a PORT_RX that is accepted; one of length 0 has then received all its bytes. -/
theorem runs_portRx_start {s : State} {c : Nat} {b n e : Word} {ch : Channel} (hb : s.bstat = .busy)
    (hstart : s.atStart = true) (hd : decode s.descriptor = .ok (.portRx c b n e)) (hc : s.chan? c = some ch)
    (hle : c ≤ s.params.nChannels) (hready : s.isReady c = true)
    (hbuf : b ≠ 0#32 → admitted s.params b.toNat n.toNat = true)
    (herr : e ≠ 0#32 → admitted s.params e.toNat 1 = true) :
    Runs (turns 1) s (afterBytes n 0 (rxPolling s c b n e 0 s.mem s.pS s.pD s.pE)) := by
  obtain ⟨-, hp⟩ : s.fphase = .none ∧ s.pphase = .idle := by simpa [State.atStart] using hstart
  refine runs_of_exec hb hd fun q => ?_
  obtain ⟨hsome, hzero⟩ := portRxAccepts (s.withPending q) c b n e hstart (chan?_pos hc) hle
    ((isReady_congr rfl c).trans hready)
  by_cases hn : n = 0#32
  · subst hn
    rw [hzero rfl, afterBytes_zero, rxPolling, ← hp]
    rfl
  · rw [hsome hn hbuf herr, afterBytes_of_ne_zero hn, rxPolling]
    rfl

/-- Settles O37: step 1, and then the arrivals one by one. -/
theorem portRxRun : Obligations.PortRxRun := by
  intro s c b n e ch es rest hinv hb hstart hd hc hr hx ho hes hbuf herr hp
  obtain ⟨-, hle, hlt, hready, hen, hdepth, -⟩ := channel_at_start hinv hb hstart hc hr
  obtain ⟨hf, -⟩ : s.fphase = .none ∧ s.pphase = .idle := by simpa [State.atStart] using hstart
  have hfirst := runs_portRx_start hb hstart hd hc hle hready hbuf herr
  obtain ⟨w, d, p, hbytes⟩ := runs_portRx_bytes hb hf hd hc hlt hen ho hx hdepth hbuf es (k := 0)
    ((Nat.zero_add _).trans hes) s.mem s.pS s.pD s.pE
  have hrun := (hfirst.append hbytes).steps hp
  rw [List.length_append, afterBytes_of_all] at hrun
  exact ⟨_, hrun, rfl, rfl, rfl, fun c' => chan?_congr rfl c', rfl, rfl, rfl⟩

end Sys2Proof.Machine
end

section
/-! SUPPORT. A transmit that waits in PT_POLL on a full buffer, when the agents take their turns (R96, R162, R274): the turn of
its own line agent makes room, and the poll after it goes on. -/

namespace Sys2Proof.Machine

/-! ## The line agent of a channel that transmits -/

@[simp] theorem lineTx_on (ch : Channel) : ch.lineTx.on = ch.on := by
  unfold Channel.lineTx
  split
  · split <;> rfl
  · rfl

@[simp] theorem lineTx_txen (ch : Channel) : ch.lineTx.txen = ch.txen := by
  unfold Channel.lineTx
  split
  · split <;> rfl
  · rfl

theorem lineTx_txbuf {ch : Channel} (hon : ch.on = true) (htx : ch.txen = true) :
    ch.lineTx.txbuf = ch.txbuf.tail := by
  cases hb : ch.txbuf with
  | nil => rw [lineTx_disabled (by simp [hb]), hb, List.tail_nil]
  | cons b bs => rw [lineTx_enabled hon htx hb, List.tail_cons]

/-! ## The wait -/

theorem mem_of_chan? {s : State} {c : Nat} {ch : Channel} (h : s.chan? c = some ch) : ch ∈ s.chans := by
  cases c with
  | zero => simp at h
  | succ k => exact List.mem_of_getElem? h

/-- Operation i polls the channel c of a machine of n channels with transmit buffers of depth d, whose agents take their turns;
the channel is ch, and transmits. -/
structure TxWaiting (i : Instr) (c n d : Nat) (ch : Channel) (s : State) : Prop where
  busy : s.bstat = .busy
  decodes : decode s.descriptor = .ok i
  portTurn : s.portTurn
  phase : s.pphase = .ptPoll
  pCh : s.pCh.toNat = c
  lenIdx : s.pSrc = .len → s.pIdx.toNat < 4
  chan : s.chan? c = some ch
  on : ch.on = true
  txen : ch.txen = true
  fits : ch.txbuf.length ≤ d
  depth : s.params.txDepth = d
  nChannels : s.params.nChannels = n
  chans : s.chans.length = n
  pending : s.pending = []
  turn : s.turn ≤ n

/-- A poll of a transmit in a legal state, with no move listed, is such a wait. -/
theorem txWaiting_of_inv {s : State} (hinv : Inv s) (hp : s.pphase = .ptPoll) (hq : s.pending = []) :
    1 ≤ s.params.txDepth ∧ ∃ i ch, TxWaiting i s.pCh.toNat s.params.nChannels s.params.txDepth ch s := by
  obtain ⟨hb, i, hd, hok⟩ := inProgress_of_inv hinv (by simp [hp])
  obtain ⟨c, src, m, htx⟩ := txOk_of_isTx hok (by simp [hp, PPhase.isTx])
  obtain ⟨ch, hc, hr, -⟩ := txOk_chan htx
  obtain ⟨hon, htxen, -⟩ := enabled_of_ready hinv hb (by simp [hp, PPhase.isInit]) hc hr
  obtain ⟨⟨⟨-, -, -, -, -, -, -, hdepth⟩, hlen, hfits, -, -, -, -, hturn⟩, -⟩ := hinv
  cases opOk_legalStep hok with
  | port h =>
    obtain ⟨-, hfit⟩ := hfits ch (mem_of_chan? hc)
    exact ⟨hdepth, i, ch, hb, hd, h.canFinish.1, hp, rfl, h.lenIdx (.inl hp), hc, hon, htxen, hfit, rfl, rfl, hlen, hq,
      hturn⟩
  | encode _ hidle | decode _ hidle | result _ hidle => simp [hp] at hidle

/-- The operation has left its poll. -/
def LeftPoll (t : State) : Prop := t.bstat = .busy ∧ (t.pphase = .ptFetch ∨ t.pphase = .ptWrite)

section
variable {i : Instr} {c n d : Nat} {ch : Channel} {s : State} (h : TxWaiting i c n d ch s)
include h

theorem TxWaiting.channel_le : 1 ≤ c ∧ c ≤ n := ⟨chan?_pos h.chan, h.chans ▸ chan?_le h.chan⟩

theorem TxWaiting.step_eq :
    step s = applyMove (turnMove s.turn) { s with turn := nextTurn n s.turn } := by
  rw [step_of_no_pending h.pending, h.nChannels]

/-- Passing the turn on leaves the operation waiting. -/
theorem TxWaiting.withTurn {k : Nat} (hk : k ≤ n) : TxWaiting i c n d ch { s with turn := k } :=
  ⟨h.busy, h.decodes, h.portTurn, h.phase, h.pCh, h.lenIdx, (chan?_congr rfl c).trans h.chan, h.on, h.txen, h.fits, h.depth,
    h.nChannels, h.chans, h.pending, hk⟩

/-- The turn of a line agent leaves the operation waiting; its own channel's agent makes room, and no agent takes any. -/
theorem TxWaiting.of_lineTurn (hd : 1 ≤ d) (hturn : 1 ≤ s.turn) :
    ∃ ch' t, step s = .next t ∧ TxWaiting i c n d ch' t ∧ t.turn = nextTurn n s.turn ∧
      (ch.txbuf.length < d ∨ s.turn = c → ch'.txbuf.length < d) := by
  obtain ⟨k, hk⟩ : ∃ k, s.turn = k + 1 := ⟨s.turn - 1, by omega⟩
  have hu := h.withTurn (nextTurn_le n s.turn)
  obtain ⟨x, hx⟩ := chan?_exists (s := { s with turn := nextTurn n s.turn }) (c := s.turn) hturn
    (h.chans.symm ▸ h.turn)
  have hstep : step s = .next { s with
      turn := nextTurn n s.turn, chans := (s.setChan s.turn x.lineTx).chans } := by
    rw [h.step_eq, hk, turnMove, ← hk, applyMove_lineTx, lineTx_of_chan hx]
    exact congrArg _ (setChan_eq_of_chans (s := s) (t := { s with turn := nextTurn n s.turn }) rfl)
  have hx : s.chan? s.turn = some x := (chan?_congr rfl _).trans hx
  by_cases hc : c = s.turn
  case pos =>
    obtain rfl : ch = x := Option.some.inj (h.chan.symm.trans (hc ▸ hx))
    have hbuf : ch.lineTx.txbuf.length = ch.txbuf.length - 1 := by rw [lineTx_txbuf h.on h.txen, List.length_tail]
    have hfits := h.fits
    refine ⟨ch.lineTx, _, hstep, ⟨h.busy, h.decodes, h.portTurn, h.phase, h.pCh, h.lenIdx, ?_, (lineTx_on ch).trans h.on,
      (lineTx_txen ch).trans h.txen, by omega, h.depth, h.nChannels, (setChan_chans_length ..).trans h.chans, h.pending,
      hu.turn⟩, rfl, fun _ => by omega⟩
    rw [hc]
    exact (chan?_congr rfl _).trans (chan?_setChan_same _ hx)
  case neg =>
    refine ⟨ch, _, hstep, ⟨h.busy, h.decodes, h.portTurn, h.phase, h.pCh, h.lenIdx, ?_, h.on, h.txen, h.fits, h.depth,
      h.nChannels, (setChan_chans_length ..).trans h.chans, h.pending, hu.turn⟩, rfl,
      fun hroom => hroom.resolve_right (Ne.symm hc)⟩
    exact (chan?_congr rfl _).trans ((chan?_setChan_other _ hc).trans h.chan)

/-- The sequencer's turn leaves the poll, or the buffer is full and the operation goes on waiting. -/
theorem TxWaiting.of_sequencerTurn (hturn : s.turn = 0) :
    ∃ t, step s = .next t ∧
      (LeftPoll t ∨ ¬ch.txbuf.length < d ∧ TxWaiting i c n d ch t ∧ t.turn = nextTurn n 0) := by
  have hu := h.withTurn (nextTurn_le n 0)
  obtain rfl := h.pCh
  obtain ⟨t, ht⟩ := stepPtPoll_answers hu.chan hu.lenIdx
  have hstep : step s = .next t := by
    rw [h.step_eq, hturn, turnMove_zero, applyMove_sequencer, sequencerTurn_of_decode_ok hu.busy hu.decodes]
    exact exec_of_portStep hu.portTurn (by simp [h.phase]) ((portStep_ptPoll hu.phase).trans ht)
  refine ⟨t, hstep, ?_⟩
  obtain ⟨x, hx, ⟨hfull, rfl⟩ | ⟨-, ⟨b, -, rfl⟩ | ⟨-, rfl⟩⟩⟩ := stepPtPoll_ok ht
  case inl =>
    obtain rfl : ch = x := Option.some.inj (hu.chan.symm.trans hx)
    have hlen := txbf_iff.mp hfull
    exact .inr ⟨by rw [hlen, hu.depth]; omega, hu, rfl⟩
  case inr.inl => exact .inl ⟨h.busy, .inr rfl⟩
  case inr.inr => exact .inl ⟨h.busy, .inl rfl⟩

end

/-! ## Rounds of turns -/

/-- Some number of steps, at most k, takes the operation out of its poll. -/
def LeavesPoll (k : Nat) (s : State) : Prop := ∃ j t, j ≤ k ∧ steps j s = .next t ∧ LeftPoll t

theorem LeavesPoll.of_steps {a k l : Nat} {s t : State} (h : steps a s = .next t) (ht : LeavesPoll k t) (hl : a + k ≤ l) :
    LeavesPoll l s := by
  obtain ⟨j, u, hj, hsteps, hu⟩ := ht
  exact ⟨a + j, u, by omega, (steps_add_of_steps h j).trans hsteps, hu⟩

section
variable {i : Instr} {c n d : Nat} {ch : Channel} {s : State} (h : TxWaiting i c n d ch s) (hd : 1 ≤ d)
include h hd

/-- The line agents' turns up to the sequencer's; that of channel c, if it is still to come, makes room. -/
theorem TxWaiting.of_lineTurns (m : Nat) (hturn : 1 ≤ s.turn) (hm : s.turn + m = n + 1) :
    ∃ ch' t, steps m s = .next t ∧ TxWaiting i c n d ch' t ∧ t.turn = 0 ∧
      (ch.txbuf.length < d ∨ s.turn ≤ c → ch'.txbuf.length < d) := by
  induction m generalizing s ch with
  | zero => exact absurd h.turn (by omega)
  | succ m ih =>
    obtain ⟨ch', t, hstep, ht, hnext, hroom⟩ := h.of_lineTurn hd hturn
    rw [steps_succ_of_step hstep]
    by_cases hlast : s.turn < n
    case pos =>
      have hnext : t.turn = s.turn + 1 := hnext.trans (if_pos hlast)
      obtain ⟨ch'', u, hsteps, hu, hzero, hroom'⟩ := ih ht (by omega) (by omega)
      exact ⟨ch'', u, hsteps, hu, hzero, fun hr => hroom' (by omega)⟩
    case neg =>
      obtain rfl : m = 0 := by omega
      have hle := h.channel_le
      have hturn := h.turn
      exact ⟨ch', t, rfl, ht, hnext.trans (if_neg hlast), fun hr => hroom (by omega)⟩

/-- From the turn of the first line agent: a round of them makes room, and the poll goes on. -/
theorem TxWaiting.leaves_of_first (hturn : s.turn = 1) : LeavesPoll (n + 1) s := by
  obtain ⟨ch', t, hsteps, ht, hzero, hroom⟩ := h.of_lineTurns hd n (by omega) (by omega)
  have hc := h.channel_le
  obtain ⟨u, hstep, hleft | ⟨hfull, -⟩⟩ := ht.of_sequencerTurn hzero
  · exact .of_steps hsteps ⟨1, u, le_refl 1, steps_succ_of_step hstep 0, hleft⟩ (le_refl _)
  · exact absurd (hroom (by omega)) hfull

/-- From the sequencer's turn: the poll goes on, or it does so a round later. -/
theorem TxWaiting.leaves_of_sequencer (hturn : s.turn = 0) : LeavesPoll (n + 2) s := by
  have hn : 1 ≤ n := h.channel_le.elim .trans
  obtain ⟨t, hstep, hleft | ⟨-, ht, hnext⟩⟩ := h.of_sequencerTurn hturn
  · exact ⟨1, t, by omega, steps_succ_of_step hstep 0, hleft⟩
  · exact .of_steps (steps_succ_of_step hstep 0) (ht.leaves_of_first hd (hnext.trans (if_pos hn))) (by omega)

theorem TxWaiting.leaves : LeavesPoll (2 * (n + 1)) s := by
  have hle := h.turn
  by_cases hturn : s.turn = 0
  case pos =>
    have hn := h.channel_le
    exact .of_steps (a := 0) rfl (h.leaves_of_sequencer hd hturn) (by omega)
  case neg =>
    obtain ⟨ch', t, hsteps, ht, hzero, -⟩ := h.of_lineTurns hd (n + 1 - s.turn) (by omega) (by omega)
    exact .of_steps hsteps (ht.leaves_of_sequencer hd hzero) (by omega)

end

/-- Settles O53: the turns up to the sequencer's, its poll, and where that finds the buffer full one more round. -/
theorem transmitWaitEnds : Obligations.TransmitWaitEnds := by
  intro s hinv _ hp hq
  obtain ⟨hdepth, i, ch, hwait⟩ := txWaiting_of_inv hinv hp hq
  exact hwait.leaves hdepth

end Sys2Proof.Machine
end

section
/-! SUPPORT. The transform over a range of caller memory, and ADD26 (R191, R192, R194). -/

namespace Sys2Proof.Machine

/-- The transform of CUR_CFG, where its configuration has one and the range does not wrap. -/
theorem transformRange_of_transform {s : State} {g : ChannelConfig} {x : Transform} {a n : Nat} (d : Dir)
    (hg : s.params.configs[s.curCfg.toNat]? = some g) (hx : g.transform = some x) (h : a + n ≤ 4294967296) :
    transformRange s d a n = .ok { s with mem := if n = 0 then s.mem else transformMem x d s.mem a n } := by
  by_cases hn : n = 0
  · rw [if_pos hn]
    exact transformRange_ok.mpr ⟨g, hg, .inl ⟨.inr hn, rfl⟩⟩
  · rw [if_neg hn]
    exact transformRange_ok.mpr ⟨g, hg, .inr ⟨x, hx, hn, h, rfl⟩⟩

/-- The bytes of the range that a transform has replaced. -/
theorem readRange_transformMem {t : Transform} {d : Dir} {m : List Host.Cell} {a n : Nat} (hm : Memory.wf m = true)
    (h : a + n ≤ 4294967296) :
    Memory.readRange (transformMem t d m a n) a n = applyTransform t d (Memory.readRange m a n) := by
  have hlen : (applyTransform t d (Memory.readRange m a n)).length = n := by simp
  have hread := Memory.readRange_writeRange (bs := applyTransform t d (Memory.readRange m a n)) hm (hlen.symm ▸ h)
  rwa [hlen] at hread

@[simp] theorem applyTransform_nil (t : Transform) (d : Dir) : applyTransform t d [] = [] :=
  List.length_eq_zero_iff.mp (applyTransform_length t d [])

/-! ## ADD26 -/

theorem add26Byte_encode (b : Byte) : add26Byte .encode b = BitVec.ofNat 8 ((b.toNat + 26) % 256) := by
  apply BitVec.eq_of_toNat_eq
  simp [add26Byte, BitVec.toNat_add]

theorem add26Byte_decode (b : Byte) : add26Byte .decode b = BitVec.ofNat 8 ((b.toNat + 230) % 256) := by
  apply BitVec.eq_of_toNat_eq
  simp [add26Byte, BitVec.toNat_sub, Nat.add_comm]

theorem add26Byte_decode_encode (b : Byte) : add26Byte .decode (add26Byte .encode b) = b := BitVec.add_sub_cancel b 26#8

/-! ## The statements -/

/-- Settles O22: an empty range is left as it is, and another is written over with the transform of what it held. -/
theorem transformInPlace : Obligations.TransformInPlace := by
  intro s g t d a n hwf hg ht h
  refine ⟨_, transformRange_of_transform d hg ht h, fun hn => if_pos hn, ?_⟩
  by_cases hn : n = 0
  case pos =>
    subst hn
    simp
  case neg =>
    rw [if_neg hn]
    exact ⟨readRange_transformMem hwf h, fun x hx => read_transformMem_outside _ hx⟩

/-- Settles O23: each direction is a map of the bytes, and subtracting 26 undoes adding it. -/
theorem add26Transform : Obligations.Add26Transform := by
  intro bs
  refine ⟨List.map_congr_left fun b _ => add26Byte_encode b, List.map_congr_left fun b _ => add26Byte_decode b, ?_⟩
  simp only [applyTransform, List.map_map]
  exact (List.map_congr_left fun b _ => add26Byte_decode_encode b).trans (List.map_id bs)

end Sys2Proof.Machine
end

section
/-! SUPPORT. Step 1 of CH_TX and CH_RX, by what their checks answer (R190, R197, R198, R202, R240). -/

namespace Sys2Proof.Machine

theorem checkChRx_eq (s : State) (c : Nat) (b m : Word) : checkChRx s c b m = checkTx s c b m := rfl

/-- An operand that a framing operation's step 1 accepts is admitted, whether it is empty or not. -/
theorem admitted_of_operand {p : Params} {a n : Word} (h : n = 0#32 ∨ (a ≠ 0#32 ∧ admitted p a.toNat n.toNat = true)) :
    admitted p a.toNat n.toNat = true := admitted_of_checked (by simpa using h)

theorem checkTx_of_operand {s : State} {c : Nat} {a n : Word} (h1 : 1 ≤ c) (h2 : c ≤ s.params.nChannels)
    (hr : s.isReady c = true) (h : n = 0#32 ∨ (a ≠ 0#32 ∧ admitted s.params a.toNat n.toNat = true)) :
    checkTx s c a n = .ok () :=
  checkTx_ok.mpr ⟨⟨h1, h2⟩, hr, h.imp_right And.left, admitted_of_operand h⟩

section
variable {s : State} {k : Nat} {a n : Word}

theorem acceptChTx_of_no_config (h : s.params.configs.length ≤ k) :
    acceptChTx k a n s = raiseFault .badConfig (BitVec.ofNat 32 k) s := by
  simp only [acceptChTx, findConfig, List.getElem?_eq_none h]

theorem acceptChRx_of_no_config (h : s.params.configs.length ≤ k) :
    acceptChRx k a n s = raiseFault .badConfig (BitVec.ofNat 32 k) s := by
  simp only [acceptChRx, findConfig, List.getElem?_eq_none h]

variable {g : ChannelConfig} (hg : s.params.configs[k]? = some g)
include hg

theorem acceptChTx_of_error {cause : Cause} {info : Word} (h : checkTx s g.channel.toNat a n = .error (cause, info)) :
    acceptChTx k a n s = raiseFault cause info s := by
  simp only [acceptChTx, findConfig, hg, h]

theorem acceptChRx_of_error {cause : Cause} {info : Word} (h : checkTx s g.channel.toNat a n = .error (cause, info)) :
    acceptChRx k a n s = raiseFault cause info s := by
  simp only [acceptChRx, checkChRx_eq, findConfig, hg, h]

theorem acceptChTx_of_ok (h : checkTx s g.channel.toNat a n = .ok ()) :
    acceptChTx k a n s =
      if g.transform.isSome then
        { s with curCfg := BitVec.ofNat 8 k, lenBuf := serialise s.params.nativeOrder n, fphase := .ctEncode }
      else startTx g.channel .len 4#32
        { s with curCfg := BitVec.ofNat 8 k, lenBuf := serialise s.params.nativeOrder n, fphase := .ctLen } := by
  simp only [acceptChTx, findConfig, hg, h]

theorem acceptChRx_of_ok (h : checkTx s g.channel.toNat a n = .ok ()) :
    acceptChRx k a n s =
      startRx g.channel .len 4#32 .sum { s with curCfg := BitVec.ofNat 8 k, errSum := 0#8, fphase := .crLen } := by
  simp only [acceptChRx, checkChRx_eq, findConfig, hg, h]

end

/-- Settles O39: where its checks pass CH_TX goes to the encode, or starts the bytes of LENBUF. -/
theorem chTxAccepts : Obligations.ChTxAccepts := by
  intro s k a n g hstart hg h1 h2 hr hop t
  have hok := acceptChTx_of_ok hg (checkTx_of_operand h1 h2 hr hop)
  refine ⟨fun ht => (exec_of_atStart hstart).trans (congrArg _ (hok.trans ?_)),
    fun ht => (exec_of_atStart hstart).trans (congrArg _ (hok.trans ?_))⟩
  · exact if_pos (Option.isSome_iff_ne_none.mpr ht)
  · exact if_neg (by simp [ht])

/-- Settles O42: where its checks pass CH_RX starts the reception of LENBUF. -/
theorem chRxAccepts : Obligations.ChRxAccepts := by
  intro s k b m g hstart hg h1 h2 hr hop
  exact (exec_of_atStart hstart).trans (congrArg _ (acceptChRx_of_ok hg (checkTx_of_operand h1 h2 hr hop)))

/-- Settles O45: the configuration is found first, and then the first check that fails gives the fault, the same in
both operations. -/
theorem framingTransfersFault : Obligations.FramingTransfersFault := by
  intro s k a n hstart
  refine ⟨fun hk => ?badConfig, fun g hg => ?config⟩
  case badConfig =>
    exact ⟨(exec_of_atStart hstart).trans (congrArg _ (acceptChTx_of_no_config hk)),
      (exec_of_atStart hstart).trans (congrArg _ (acceptChRx_of_no_config hk))⟩
  case config =>
    intro c
    have hfault {cause : Cause} {info : Word} (h : checkTx s c a n = .error (cause, info)) :
        exec (.chTx k a n) s = .next (raiseFault cause info s) ∧
          exec (.chRx k a n) s = .next (raiseFault cause info s) :=
      ⟨(exec_of_atStart hstart).trans (congrArg _ (acceptChTx_of_error hg h)),
        (exec_of_atStart hstart).trans (congrArg _ (acceptChRx_of_error hg h))⟩
    exact ⟨fun hc => hfault (checkTx_of_bad_channel a n hc),
      fun h1 h2 hr => hfault (checkTx_of_not_ready h1 h2 a n hr),
      fun h1 h2 hr hn ha => hfault (ha ▸ checkTx_of_null h1 h2 hr hn),
      fun h1 h2 hr _ ha hadm => hfault (checkTx_of_bad_range h1 h2 hr ha hadm)⟩

end Sys2Proof.Machine
end

section
/-! SUPPORT. The steps of the framing state machines where they have what they need, with the whole next state: the
transform steps and the result (R197, R202), where the end of each transfer leads (R200, R206), and the bytes that go
through LENBUF (R163, R171). -/

namespace Sys2Proof.Machine

/-! ## The framing layer's own steps -/

theorem exec_of_continueOp {i : Instr} {s t : State} (hf : s.fphase ≠ .none)
    (h : continueOp (operandWords i).1 (operandWords i).2 s = .ok t) : exec i s = .next t := by
  rw [exec_next, stepOp_of_not_atStart (by simp [State.atStart, hf]), h]

/-- A transform over an operand's range. -/
theorem transformRange_of_words {s : State} {g : ChannelConfig} {x : Transform} {a n : Word} (d : Dir)
    (hg : s.params.configs[s.curCfg.toNat]? = some g) (hx : g.transform = some x)
    (h : a.toNat + n.toNat ≤ 4294967296) :
    transformRange s d a.toNat n.toNat =
      .ok { s with mem := if n = 0#32 then s.mem else transformMem x d s.mem a.toNat n.toNat } := by
  have hzero : n.toNat = 0 ↔ n = 0#32 := BitVec.toNat_inj (y := 0#32)
  rw [transformRange_of_transform d hg hx h]
  simp only [hzero]

theorem stepCtEncode_of_transform {s : State} {g : ChannelConfig} {x : Transform} {a n : Word}
    (hg : s.params.configs[s.curCfg.toNat]? = some g) (hx : g.transform = some x)
    (h : a.toNat + n.toNat ≤ 4294967296) :
    stepCtEncode a n s = .ok (startTx g.channel .len 4#32 { s with
      mem := if n = 0#32 then s.mem else transformMem x .encode s.mem a.toNat n.toNat, fphase := .ctLen }) :=
  (stepCtEncode_of_config hg).trans (exceptBind_of_ok (transformRange_of_words .encode hg hx h))

theorem stepCrDecode_of_transform {s : State} {g : ChannelConfig} {x : Transform} {b : Word}
    (hg : s.params.configs[s.curCfg.toNat]? = some g) (hx : g.transform = some x)
    (h : b.toNat + s.recvLen.toNat ≤ 4294967296) :
    stepCrDecode b s = .ok { s with
      mem := if s.recvLen = 0#32 then s.mem else transformMem x .decode s.mem b.toNat s.recvLen.toNat
      fphase := .crResult } :=
  exceptBind_of_ok (transformRange_of_words .decode hg hx h)

/-! ## Where the end of a transfer leads -/

section
variable {w1 w2 : Word} {s : State}

theorem finishTransfer_of_ctLen (h : s.fphase = .ctLen) : finishTransfer w1 w2 s = afterLength w1 w2 s := by
  simp only [finishTransfer, h]

theorem finishTransfer_of_ctPayload (h : s.fphase = .ctPayload) : finishTransfer w1 w2 s = .ok (complete s) := by
  simp only [finishTransfer, h]

theorem finishTransfer_of_crLen (h : s.fphase = .crLen) : finishTransfer w1 w2 s = afterPrefix w1 w2 s := by
  simp only [finishTransfer, h]

theorem finishTransfer_of_crPayload (h : s.fphase = .crPayload) : finishTransfer w1 w2 s = afterPayload s := by
  simp only [finishTransfer, h]

theorem finishTransfer_of_crDrain (h : s.fphase = .crDrain) : finishTransfer w1 w2 s = afterDrain s := by
  simp only [finishTransfer, h]

end

theorem afterLength_of_zero (a : Word) (s : State) : afterLength a 0#32 s = .ok (complete s) := rfl

theorem afterLength_of_ne_zero {n : Word} (h : n ≠ 0#32) (a : Word) (s : State) :
    afterLength a n s = .ok (startTx s.pCh (.mem a) n { s with fphase := .ctPayload }) := if_neg h

/-- The phase that follows the last byte of a CH_RX. -/
theorem afterDrain_of_config {s : State} {g : ChannelConfig} (hg : s.params.configs[s.curCfg.toNat]? = some g) :
    afterDrain s =
      .ok { s with fphase := if g.transform = none then .crResult else .crDecode, pphase := .idle } := by
  simp only [afterDrain, hg]
  cases g.transform <;> rfl

theorem afterPayload_of_lt {s : State} (h : s.recvLen < s.pktLen) :
    afterPayload s = .ok (startRx s.pCh .null (s.pktLen - s.recvLen) .sum { s with fphase := .crDrain }) := if_pos h

theorem afterPayload_of_not_lt {s : State} (h : ¬s.recvLen < s.pktLen) : afterPayload s = afterDrain s := if_neg h

theorem minWord_zero (m : Word) : minWord 0#32 m = 0#32 := if_pos (BitVec.le_def.mpr (Nat.zero_le _))

section
variable {s : State} {b m pkt recv : Word} (hpkt : assemble s.params.nativeOrder s.lenBuf = pkt)
  (hrecv : minWord pkt m = recv)
include hpkt hrecv

theorem afterPrefix_of_ne_zero (h : recv ≠ 0#32) :
    afterPrefix b m s = .ok (startRx s.pCh (.mem b) recv .sum
      { s with pktLen := pkt, recvLen := recv, fphase := .crPayload }) := by
  subst hpkt hrecv
  exact if_pos (word_pos.mpr h)

theorem afterPrefix_of_zero (h : recv = 0#32) :
    afterPrefix b m s = afterPayload { s with pktLen := pkt, recvLen := recv } := by
  subst hpkt hrecv
  exact if_neg fun hpos => word_pos.mp hpos h

end

/-! ## The bytes of LENBUF, and the errors of a CH_RX -/

theorem stepPtPoll_of_room_len {s : State} {ch : Channel} {v : Byte} (hc : s.chan? s.pCh.toNat = some ch)
    (hs : s.pSrc = .len) (h : ch.txbuf.length ≠ s.params.txDepth) (hv : s.lenBuf.get? s.pIdx.toNat = some v) :
    stepPtPoll s = .ok { s with pD := v, pphase := .ptWrite } := by
  have hroom : ch.txbf s.params.txDepth = false := by simpa [← txbf_iff] using h
  unfold stepPtPoll
  rw [exceptBind_of_ok (regRead_status_of_chan hc)]
  simp only [statusWord_txbf, hroom, hs, hv, Bool.false_eq_true, if_false]

theorem stepPrRead_of_entry_len {w1 w2 : Word} {s : State} {ch : Channel} {x : RxEntry} {xs : List RxEntry} {l : LenBuf}
    (hc : s.chan? s.pCh.toNat = some ch) (hx : ch.rxfifo = x :: xs) (hs : s.pSrc = .len)
    (hl : s.lenBuf.set? s.pIdx.toNat x.data = some l) :
    stepPrRead w1 w2 s = advance .prPoll w1 w2
      { s.setChan s.pCh.toNat { ch with rxfifo := xs } with pD := x.data, lenBuf := l } := by
  unfold stepPrRead
  rw [exceptBind_of_ok (regRead_rxreg_of_entry hc hx)]
  simp only [setChan_pSrc, setChan_lenBuf, setChan_pIdx, hs, hl, byte_of_setWidth]

theorem mergeErrors_of_sum {s : State} (err : Byte) (h : s.pErr = .sum) :
    mergeErrors err s = { s with pE := err, errSum := s.errSum ||| err, pphase := .prRead } := by
  simp only [mergeErrors, h]

/-! ## The statements -/

theorem portTurn_of_ct {s : State} (h : s.fphase = .ctLen ∨ s.fphase = .ctPayload) : s.portTurn := by
  obtain h | h := h <;> simp [State.portTurn, h]

theorem portTurn_of_cr {s : State} (h : s.fphase = .crLen ∨ s.fphase = .crPayload ∨ s.fphase = .crDrain) :
    s.portTurn := by
  obtain h | h | h := h <;> simp [State.portTurn, h]

/-- Settles O40: the encode is the framing layer's own step; the others are the port engine's, and the last write of a
transfer goes where the end of the transfer leads. -/
theorem chTxPhases : Obligations.ChTxPhases := by
  intro s k a n g ch hg hc
  have hstep {t : State} (hf : s.fphase = .ctLen ∨ s.fphase = .ctPayload) (hp : s.pphase ≠ .idle)
      (h : portStep a n s = .ok t) : exec (.chTx k a n) s = .next t :=
    exec_of_portStep (i := .chTx k a n) (portTurn_of_ct hf) hp h
  have hwrite (hp : s.pphase = .ptWrite) (hon : ch.on = true) (hroom : ch.txbuf.length < s.params.txDepth) :
      portStep a n s = advance .ptPoll a n
        { s with chans := (s.setChan s.pCh.toNat { ch with txbuf := ch.txbuf ++ [s.pD] }).chans } := by
    rw [portStep_ptWrite hp, stepPtWrite_of_room hc hon hroom, setChan_eq]
  refine ⟨fun t hf ht h => exec_of_continueOp (by simp [hf]) ?encodes,
    fun hf hp hfull => hstep hf (by simp [hp]) ?waits, fun v hf hp hs hroom hv => hstep (.inl hf) (by simp [hp]) ?takes,
    fun x hf hp hs hroom => hstep (.inr hf) (by simp [hp]) ?polls,
    fun x hf hp hs hlt => hstep (.inr hf) (by simp [hp]) ?fetches,
    fun hf hp hon hroom hmore => hstep hf (by simp [hp]) ?writes, fun hp hon hroom hlast => ?lastWrite⟩
  case encodes => exact (continueOp_ctEncode hf).trans (stepCtEncode_of_transform hg ht h)
  case waits => rw [portStep_ptPoll hp, stepPtPoll_of_full hc hfull]
  case takes => rw [portStep_ptPoll hp, stepPtPoll_of_room_len hc hs hroom hv]
  case polls => rw [portStep_ptPoll hp, stepPtPoll_of_room hc hs hroom]
  case fetches => exact (portStep_ptFetch_of_mem hp hs).trans (exceptBind_of_ok (memRead_of_lt hlt))
  case writes =>
    rw [setChan_eq]
    exact (hwrite hp hon hroom).trans (advance_of_more (by exact hmore))
  case lastWrite =>
    have hend := (hwrite hp hon hroom).trans (advance_of_last (by exact hlast))
    rw [setChan_eq]
    refine ⟨fun hf hn => hstep (.inl hf) (by simp [hp]) (hend.trans ?payload),
      fun hf hn => hstep (.inl hf) (by simp [hp]) (hend.trans ?empty),
      fun hf => hstep (.inr hf) (by simp [hp]) (hend.trans ?done)⟩
    case payload => exact (finishTransfer_of_ctLen (by exact hf)).trans (afterLength_of_ne_zero hn a _)
    case empty =>
      subst hn
      exact (finishTransfer_of_ctLen (by exact hf)).trans (afterLength_of_zero a _)
    case done => exact finishTransfer_of_ctPayload (by exact hf)

/-- Settles O43: the bytes are the port engine's steps, whose last one of each transfer goes where its end leads; the
decode and the result are the framing layer's own. -/
theorem chRxPhases : Obligations.ChRxPhases := by
  intro s k b m g ch z zs hg hc last receiving polled taken err
  have hstep {t : State} (hf : receiving) (hp : s.pphase ≠ .idle) (h : portStep b m s = .ok t) :
      exec (.chRx k b m) s = .next t := exec_of_portStep (i := .chRx k b m) (portTurn_of_cr hf) hp h
  have htaken : taken = { s with
      chans := (s.setChan s.pCh.toNat { ch with rxfifo := zs }).chans, pD := z.data } := by
    simp only [taken]
    rw [setChan_eq]
  have hlen {l : LenBuf} (hp : s.pphase = .prRead) (hx : ch.rxfifo = z :: zs) (hs : s.pSrc = .len)
      (hl : s.lenBuf.set? s.pIdx.toNat z.data = some l) :
      portStep b m s = advance .prPoll b m { taken with lenBuf := l } := by
    rw [portStep_prRead hp, stepPrRead_of_entry_len hc hx hs hl]
  have hstore {x : Word} (hp : s.pphase = .prStore) (hs : s.pSrc = .mem x) (hlt : x.toNat + s.pIdx.toNat < 2 ^ 32) :
      portStep b m s = advance .prPoll b m { s with mem := Memory.write s.mem (x.toNat + s.pIdx.toNat) s.pD } :=
    (portStep_prStore_of_mem hp hs).trans (exceptBind_of_ok (memWrite_of_lt _ hlt))
  have hdrop (hp : s.pphase = .prRead) (hx : ch.rxfifo = z :: zs) (hs : s.pSrc = .null) :
      portStep b m s = advance .prPoll b m taken := by
    rw [portStep_prRead hp, stepPrRead_of_entry_null hc hx hs]
  rw [htaken] at hlen hdrop ⊢
  refine ⟨fun hf hp hx ho => hstep hf (by simp [hp]) ?waits, fun hf hp hx herr => hstep hf (by simp [hp]) ?polls,
    fun l hf hp hx hs hmore hl => hstep (.inl hf) (by simp [hp]) ?keeps,
    fun x hf hp hx hs => hstep (.inr (.inl hf)) (by simp [hp]) ?takes,
    fun x hf hp hs hlt hmore => hstep (.inr (.inl hf)) (by simp [hp]) ?stores,
    fun hf hp hx hs hmore => hstep (.inr (.inr hf)) (by simp [hp]) ?drops,
    fun hf hp hx hs hidx hlast => ?lenEnd, fun x hf hp hs hlt hlast => ?payloadEnd,
    fun hf hp hx hs hlast => hstep (.inr (.inr hf)) (by simp [hp]) ?drainEnd,
    fun t hf ht h => exec_of_continueOp (by simp [hf]) ?decodes, fun hf => exec_of_continueOp (by simp [hf]) ?results⟩
  case waits => rw [portStep_prPoll hp, stepPrPoll_of_empty hc hx, ho, if_neg Bool.false_ne_true]
  case polls =>
    rw [portStep_prPoll hp, stepPrPoll_of_entry hc hx]
    exact congrArg _ (mergeErrors_of_sum _ herr)
  case takes => rw [portStep_prRead hp, stepPrRead_of_entry_mem hc hx hs, setChan_eq]
  case keeps => exact (hlen hp hx hs hl).trans (advance_of_more (by exact hmore))
  case stores => exact (hstore hp hs hlt).trans (advance_of_more (by exact hmore))
  case drops => exact (hdrop hp hx hs).trans (advance_of_more (by exact hmore))
  case lenEnd =>
    intro pkt recv t
    have hset : s.lenBuf.set? s.pIdx.toNat z.data = some { s.lenBuf with b3 := z.data } := by
      rw [hidx]
      rfl
    have hidx' : s.pIdx + 1#32 = 4#32 := by
      rw [hidx]
      rfl
    have hend := ((hlen hp hx hs hset).trans (advance_of_last (by exact hidx'.trans hlast.symm))).trans
      (finishTransfer_of_crLen (by exact hf))
    refine ⟨fun hrecv => hstep (.inl hf) (by simp [hp]) (hend.trans ?payload),
      fun hrecv hpkt => hstep (.inl hf) (by simp [hp]) ((hend.trans (afterPrefix_of_zero rfl rfl hrecv)).trans ?drain),
      fun hpkt => hstep (.inl hf) (by simp [hp]) ((hend.trans (afterPrefix_of_zero rfl rfl ?recvZero)).trans ?last)⟩
    case payload => exact afterPrefix_of_ne_zero rfl rfl hrecv
    case drain =>
      have hlt : recv < pkt := hrecv ▸ word_pos.mpr hpkt
      have hall : pkt - recv = pkt := by rw [hrecv, BitVec.sub_zero]
      exact (afterPayload_of_lt (by exact hlt)).trans (congrArg (fun l => Except.ok { t with
        fphase := .crDrain, pphase := .prPoll, pSrc := .null, pLen := l, pIdx := 0#32, pErr := .sum }) hall)
    case recvZero => exact (congrArg (minWord · m) hpkt).trans (minWord_zero m)
    case last =>
      have hle : ¬recv < pkt := hpkt ▸ BitVec.not_lt_zero
      exact (afterPayload_of_not_lt (by exact hle)).trans ((afterDrain_of_config (by exact hg)).trans
        (congrArg (fun x => Except.ok { t with fphase := last, pphase := .idle, pIdx := x }) hidx'))
  case payloadEnd =>
    intro t
    have hend := ((hstore hp hs hlt).trans (advance_of_last (by exact hlast))).trans
      (finishTransfer_of_crPayload (by exact hf))
    refine ⟨fun hlt => hstep (.inr (.inl hf)) (by simp [hp]) (hend.trans (afterPayload_of_lt (by exact hlt))),
      fun hle => hstep (.inr (.inl hf)) (by simp [hp]) ((hend.trans (afterPayload_of_not_lt (by exact hle))).trans ?_)⟩
    exact afterDrain_of_config (by exact hg)
  case drainEnd =>
    exact (((hdrop hp hx hs).trans (advance_of_last (by exact hlast))).trans
      (finishTransfer_of_crDrain (by exact hf))).trans (afterDrain_of_config (by exact hg))
  case decodes => exact (continueOp_crDecode hf).trans (stepCrDecode_of_transform hg ht h)
  case results =>
    rw [continueOp_crResult hf, BitVec.ofNat_toNat]
    rfl

end Sys2Proof.Machine
end

section
/-! SUPPORT. The results RES0 and RES1 over a step of the whole machine: the only step that writes them, but for a reset,
is CR_RESULT, in which the invariant has a CH_RX in progress (R205). -/

namespace Sys2Proof.Machine

/-- The step leaves RES0 and RES1 as they were. -/
def SameResults (s t : State) : Prop := t.res0 = s.res0 ∧ t.res1 = s.res1

theorem SameButPhase.sameResults {s u t : State} (h : SameButPhase u t) (hu : SameResults s u) : SameResults s t :=
  ⟨h.res0.trans hu.1, h.res1.trans hu.2⟩

/-! ## A step of an operation -/

theorem acceptInit_sameResults (c : Nat) (baud : Word) (s : State) : SameResults s (acceptInit c baud s) := by
  unfold acceptInit
  split <;> exact ⟨rfl, rfl⟩

theorem acceptOp_sameResults (i : Instr) (s : State) : SameResults s (acceptOp i s) := by
  cases i with
  | portInit c baud => exact acceptInit_sameResults c baud s
  | portTx c a n =>
    simp only [acceptOp, acceptPortTx]
    split
    · exact ⟨rfl, rfl⟩
    · split <;> exact ⟨rfl, rfl⟩
  | portRx c b n e =>
    simp only [acceptOp, acceptPortRx]
    split
    · exact ⟨rfl, rfl⟩
    · split <;> exact ⟨rfl, rfl⟩
  | chInit k baud =>
    simp only [acceptOp, acceptChInit]
    split
    · exact ⟨rfl, rfl⟩
    · exact acceptInit_sameResults _ baud s
  | chTx k a n =>
    simp only [acceptOp, acceptChTx]
    split
    · exact ⟨rfl, rfl⟩
    · split
      · exact ⟨rfl, rfl⟩
      · split <;> exact ⟨rfl, rfl⟩
  | chRx k b m =>
    simp only [acceptOp, acceptChRx]
    split
    · exact ⟨rfl, rfl⟩
    · split <;> exact ⟨rfl, rfl⟩

theorem mergeErrors_sameResults (err : Byte) (s : State) : SameResults s (mergeErrors err s) := by
  unfold mergeErrors
  split <;> exact ⟨rfl, rfl⟩

theorem portStep_sameResults {w1 w2 : Word} {s t : State} (h : portStep w1 w2 s = .ok t) : SameResults s t := by
  have hinit {r : Reg} {v : Word} {next : PPhase} (h : initWrite r v next s = .ok t) : SameResults s t := by
    obtain ⟨ch, -, rfl⟩ := initWrite_ok.mp h
    exact ⟨rfl, rfl⟩
  cases hp : s.pphase with
  | idle => simp [portStep_idle hp] at h
  | pi1 => exact hinit (portStep_pi1 hp ▸ h)
  | pi2 => exact hinit (portStep_pi2 hp ▸ h)
  | pi3 => exact hinit (portStep_pi3 hp ▸ h)
  | pi4 => exact hinit (portStep_pi4 hp ▸ h)
  | prClear => exact hinit (r := .status) (portStep_prClear hp ▸ h)
  | pi5 =>
    obtain ⟨ch, -, h⟩ := stepPi5_ok.mp (portStep_pi5 hp ▸ h)
    exact (finishTransfer_frame h).sameResults ⟨rfl, rfl⟩
  | ptPoll =>
    obtain ⟨ch, -, ⟨-, rfl⟩ | ⟨-, ⟨b, -, rfl⟩ | ⟨-, rfl⟩⟩⟩ := stepPtPoll_ok (portStep_ptPoll hp ▸ h)
    all_goals exact ⟨rfl, rfl⟩
  | ptFetch =>
    obtain ⟨b, rfl⟩ := stepPtFetch_ok (portStep_ptFetch hp ▸ h)
    exact ⟨rfl, rfl⟩
  | ptWrite =>
    obtain ⟨ch, -, h⟩ := stepPtWrite_ok.mp (portStep_ptWrite hp ▸ h)
    exact (advance_frame h).sameResults ⟨rfl, rfl⟩
  | prPoll =>
    obtain ⟨ch, -, ⟨x, xs, -, rfl⟩ | rfl | rfl⟩ := stepPrPoll_ok (portStep_prPoll hp ▸ h)
    · exact mergeErrors_sameResults _ _
    · exact ⟨rfl, rfl⟩
    · exact ⟨rfl, rfl⟩
  | prMrd =>
    obtain ⟨b, rfl⟩ := stepPrMrd_ok (portStep_prMrd hp ▸ h)
    exact ⟨rfl, rfl⟩
  | prMwr =>
    obtain ⟨e, -, -, rfl⟩ := stepPrMwr_ok (portStep_prMwr hp ▸ h)
    exact ⟨rfl, rfl⟩
  | prRead =>
    obtain ⟨ch, d, b, -, ⟨-, rfl⟩ | ⟨-, l, h⟩ | ⟨-, h⟩⟩ := stepPrRead_ok (portStep_prRead hp ▸ h)
    · exact ⟨rfl, rfl⟩
    · exact (advance_frame h).sameResults ⟨rfl, rfl⟩
    · exact (advance_frame h).sameResults ⟨rfl, rfl⟩
  | prStore =>
    obtain ⟨b, -, -, h⟩ := stepPrStore_ok (portStep_prStore hp ▸ h)
    exact (advance_frame h).sameResults ⟨rfl, rfl⟩

/-- Every step of an operation past its step 1 keeps the results but CR_RESULT, which writes them (R205). -/
theorem continueOp_results {w1 w2 : Word} {s t : State} (h : continueOp w1 w2 s = .ok t) :
    SameResults s t ∨ (s.fphase = .crResult ∧ t = stepCrResult s) := by
  cases hf : s.fphase with
  | ctEncode =>
    obtain ⟨g, m, -, -, rfl⟩ := stepCtEncode_ok (continueOp_ctEncode hf ▸ h)
    exact .inl ⟨rfl, rfl⟩
  | crDecode =>
    obtain ⟨m, -, rfl⟩ := stepCrDecode_ok (continueOp_crDecode hf ▸ h)
    exact .inl ⟨rfl, rfl⟩
  | crResult => exact .inr ⟨rfl, (Except.ok.inj ((continueOp_crResult hf).symm.trans h)).symm⟩
  | none | ctLen | ctPayload | crLen | crPayload | crDrain =>
    have hport : s.portTurn := by simp [State.portTurn, hf]
    exact .inl (portStep_sameResults (continueOp_of_portTurn hport ▸ h))

theorem stepOp_results {i : Instr} {s t : State} (h : stepOp i s = .ok t) :
    SameResults s t ∨ (s.atStart = false ∧ s.fphase = .crResult ∧ t = stepCrResult s) := by
  cases ha : s.atStart with
  | true =>
    obtain rfl := Except.ok.inj ((stepOp_of_atStart ha).symm.trans h)
    exact .inl (acceptOp_sameResults i s)
  | false => exact (continueOp_results (stepOp_of_not_atStart ha ▸ h)).imp_right fun h => ⟨rfl, h⟩

/-- In CR_RESULT the operation is a CH_RX, and its declared length is the one that LENBUF encodes (R202). -/
theorem opOk_crResult {s : State} {i : Instr} (h : opOk s i = true) (hf : s.fphase = .crResult) :
    (∃ k b m, i = .chRx k b m) ∧ s.pktLen = assemble s.params.nativeOrder s.lenBuf := by
  cases i with
  | portInit c baud => simp [initOk_fphase h] at hf
  | portTx c a n => simp [opOk, hf] at h
  | portRx c b n e => simp [opOk, hf] at h
  | chInit k baud =>
    simp only [opOk] at h
    split at h
    · simp [initOk_fphase h] at hf
    · cases h
  | chTx k a n =>
    simp only [opOk] at h
    split at h
    · simp [chTxOk, hf] at h
    · cases h
  | chRx k b m =>
    simp only [opOk] at h
    split at h
    · simp only [chRxOk, lengthsOk, hf, Bool.and_eq_true, decide_eq_true_eq] at h
      obtain ⟨-, -, ⟨hpkt, -⟩, -⟩ := h
      exact ⟨⟨k, b, m, rfl⟩, hpkt⟩
    · cases h

/-! ## A move -/

/-- No move of the host or of a line agent writes the results. -/
theorem applyMove_sameResults {m : Move} {s t : State} (h : applyMove m s = .next t) (hseq : m ≠ .sequencer)
    (hreset : ∀ draws, m ≠ .reset draws) : SameResults s t := by
  cases m with
  | sequencer => contradiction
  | reset draws => exact absurd rfl (hreset draws)
  | issue w0 w1 w2 w3 =>
    obtain rfl := Host.Outcome.next.inj h
    obtain ⟨-, he⟩ | ⟨-, he⟩ | ⟨-, he⟩ := issue_cases ⟨w0, w1, w2, w3⟩ s <;> rw [he] <;> exact ⟨rfl, rfl⟩
  | hostRead r =>
    obtain rfl := Host.Outcome.next.inj h
    exact ⟨rfl, rfl⟩
  | hostLoad a =>
    obtain rfl := hostLoad_next h
    exact ⟨rfl, rfl⟩
  | hostStore a v =>
    obtain rfl := hostStore_next h
    exact ⟨rfl, rfl⟩
  | lineTx c =>
    obtain ⟨ch, -, rfl⟩ := lineTx_next h
    exact ⟨rfl, rfl⟩
  | lineRx c b pe fe =>
    obtain ⟨ch, -, rfl⟩ := lineRx_next h
    exact ⟨rfl, rfl⟩

/-- The sequencer's turn keeps the results but in CR_RESULT. -/
theorem sequencerTurn_results {s t : State} (hphase : phaseOk s = true) (h : sequencerTurn s = .next t) :
    SameResults s t ∨
      ((∃ k b m, decode s.descriptor = .ok (.chRx k b m)) ∧ s.fphase = .crResult ∧
        s.pktLen = assemble s.params.nativeOrder s.lenBuf ∧ t = stepCrResult s) := by
  obtain ⟨-, rfl⟩ | ⟨-, c, info, rfl⟩ | ⟨-, i, hd, hi⟩ := sequencerTurn_next h
  · exact .inl ⟨rfl, rfl⟩
  · exact .inl ⟨rfl, rfl⟩
  · obtain hsame | ⟨ha, hf, rfl⟩ := stepOp_results hi
    · exact .inl hsame
    · obtain ⟨⟨k, b, m, rfl⟩, hpkt⟩ := opOk_crResult (opOk_of_phaseOk hphase ha hd) hf
      exact .inr ⟨⟨k, b, m, hd⟩, hf, hpkt, rfl⟩

/-- Settles O56: a move that changes a result and is no reset is the sequencer's turn in CR_RESULT. -/
theorem resultsOnlyFromChRx : Obligations.ResultsOnlyFromChRx := by
  intro s t hinv h hreset hchange
  obtain ⟨-, -, -, hphase⟩ := hinv
  obtain ⟨q, n, hu⟩ := schedule_eq s
  have h : applyMove (schedule s).1 { s with pending := q, turn := n } = .next t := hu ▸ h
  have hnot : ¬SameResults { s with pending := q, turn := n } t := fun ⟨h0, h1⟩ => hchange.elim (· h0) (· h1)
  by_cases hm : (schedule s).1 = .sequencer
  case neg => exact absurd (applyMove_sameResults h hm hreset) hnot
  case pos =>
    have hturn : sequencerTurn { s with pending := q, turn := n } = .next t := (hm ▸ h :)
    obtain ⟨hd, hf, hpkt, rfl⟩ :=
      (sequencerTurn_results (s := { s with pending := q, turn := n }) hphase hturn).resolve_left hnot
    exact ⟨hm, hd, hf, hpkt, rfl, rfl, rfl⟩

end Sys2Proof.Machine
end

section
/-! SUPPORT. A whole CH_TX under TX-prompt: the bytes of a transmit from any source by induction on those still to come,
and then the length from LENBUF and the payload from caller memory (R159, R163, R197 to R201;
spec/95_test_vectors.md). -/

namespace Sys2Proof.Machine

/-! ## The step that ends a byte -/

section
variable {poll : PPhase} {w1 w2 n : Word} {u : State} {k : Nat} (hlen : u.pLen = n) (hidx : u.pIdx = BitVec.ofNat 32 k)
include hlen hidx

/-- After the last byte the index register holds the length. -/
theorem advance_of_last_byte (hk : k + 1 = n.toNat) :
    advance poll w1 w2 u = finishTransfer w1 w2 { u with pIdx := n, pphase := .idle } := by
  have hnext : u.pIdx + 1#32 = n := hidx ▸ (ofNat_add_one_eq_iff (by omega)).mpr hk
  rw [advance_of_last (hnext.trans hlen.symm), hnext]

theorem advance_of_earlier_byte (hk : k + 1 < n.toNat) :
    advance poll w1 w2 u = .ok { u with pIdx := BitVec.ofNat 32 (k + 1), pphase := poll } := by
  have hmore : u.pIdx + 1#32 ≠ u.pLen := by
    rw [hidx, hlen, Ne, ofNat_add_one_eq_iff (by omega)]
    omega
  rw [advance_of_more hmore, hidx, BitVec.ofNat_add]

end

/-! ## The bytes of a transmit -/

theorem lenBuf_get?_eq (l : LenBuf) (k : Nat) : l.get? k = l.toList[k]? :=
  match k with
  | 0 | 1 | 2 | 3 | _ + 4 => rfl

/-- The channel once the bytes have been sent on it. -/
def Channel.wired (ch : Channel) (bs : List Byte) : Channel := { ch with wireOut := ch.wireOut ++ bs }

@[simp] theorem wired_nil (ch : Channel) : ch.wired [] = ch := by simp only [Channel.wired, List.append_nil]

@[simp] theorem wired_wired (ch : Channel) (bs bs' : List Byte) : (ch.wired bs).wired bs' = ch.wired (bs ++ bs') := by
  simp only [Channel.wired, List.append_assoc]

/-- The transmit u of the bytes bs on channel c that polls for the byte of index k, the bytes before it sent and d the
last of them. -/
def sending (u : State) (c : Nat) (ch : Channel) (bs : List Byte) (k : Nat) (d : Byte) : State :=
  { u with
    pphase := .ptPoll, pIdx := BitVec.ofNat 32 k, pD := d, chans := (u.setChan c (ch.wired (bs.take k))).chans }

/-- A transmit that has sent nothing yet. -/
theorem sending_zero {u : State} {c : Nat} {ch : Channel} (bs : List Byte) (hc : u.chan? c = some ch)
    (hp : u.pphase = .ptPoll) (hidx : u.pIdx = 0#32) : sending u c ch bs 0 u.pD = u := by
  have hself : (u.setChan c (ch.wired (bs.take 0))).chans = u.chans := by
    rw [List.take_zero, wired_nil, setChan_self hc]
  rw [sending, hself, ← hp, show BitVec.ofNat 32 0 = u.pIdx from hidx.symm]

/-- The end of the transfer u, which neither reads nor writes a channel, leads to v. -/
def EndsTransmit (w1 w2 : Word) (u v : State) : Prop :=
  ∀ l q, finishTransfer w1 w2 (State.withPending { u with chans := l } q) =
    .ok (State.withPending { v with chans := l } q)

section
variable {i : Instr} {u : State} {c : Nat} {ch : Channel} {n : Word} {bs : List Byte} (h : Executing i u)
  (hpc : u.pCh.toNat = c) (hc : u.chan? c = some ch) (hen : ch.enabled) (hbuf : ch.txbuf = [])
  (hdepth : 1 ≤ u.params.txDepth) (hlen : u.pLen = n)

include hc in
theorem sending_chan? (k : Nat) (d : Byte) : (sending u c ch bs k d).chan? c = some (ch.wired (bs.take k)) :=
  (chan?_congr rfl c).trans (chan?_setChan_same _ hc)

include h hpc hc hbuf hdepth

/-- A byte of LENBUF is taken by its poll. -/
theorem runs_loadLen (hs : u.pSrc = .len) (hbs : bs = u.lenBuf.toList) {k : Nat} {v : Byte} (hv : bs[k]? = some v)
    (d : Byte) :
    Runs (turns 1) (sending u c ch bs k d) { sending u c ch bs k v with pphase := .ptWrite } := by
  have hk : k < 4 := by simpa [hbs, LenBuf.toList] using (List.getElem?_eq_some_iff.mp hv).1
  have hidx : (BitVec.ofNat 32 k).toNat = k := by
    rw [BitVec.toNat_ofNat]
    omega
  have hroom : (ch.wired (bs.take k)).txbuf.length ≠ u.params.txDepth := by
    simp only [Channel.wired, hbuf, List.length_nil]
    omega
  have hget : u.lenBuf.get? (BitVec.ofNat 32 k).toNat = some v := by rw [hidx, lenBuf_get?_eq, ← hbs, hv]
  subst hpc
  refine runs_of_portStep (s := sending u u.pCh.toNat ch bs k d) ⟨h.busy, h.decodes, h.portTurn⟩ (by simp [sending])
    fun q => ?_
  rw [portStep_ptPoll (s := (sending u u.pCh.toNat ch bs k d).withPending q) rfl]
  exact stepPtPoll_of_room_len (s := (sending u u.pCh.toNat ch bs k d).withPending q)
    ((withPending_chan? ..).trans (sending_chan? hc k d)) hs hroom hget

/-- A byte of the payload is polled for and fetched. -/
theorem runs_loadPayload {a : Word} (hs : u.pSrc = .mem a) (hbs : bs = Memory.readRange u.mem a.toNat n.toNat)
    (hadm : admitted u.params a.toNat n.toNat = true) {k : Nat} {v : Byte} (hv : bs[k]? = some v) (d : Byte) :
    Runs (turns 2) (sending u c ch bs k d) { sending u c ch bs k v with pphase := .ptWrite } := by
  obtain ⟨hk, hval⟩ := List.getElem?_eq_some_iff.mp hv
  have hk : k < n.toNat := by simpa [hbs] using hk
  have hval : v = Memory.read u.mem (a.toNat + k) := by simp [← hval, hbs, Memory.readRange]
  have haddr : byteAddr a (sending u c ch bs k d).pIdx = a.toNat + k := byteAddr_ofNat hk
  have hroom : (ch.wired (bs.take k)).txbuf.length ≠ u.params.txDepth := by
    simp only [Channel.wired, hbuf, List.length_nil]
    omega
  have hfetch := runs_fetchByte (s := sending u c ch bs k d) ⟨h.busy, h.decodes, h.portTurn⟩ hpc
    (sending_chan? hc k d) rfl hs hroom (haddr ▸ byte_lt_of_admitted hadm hk)
  rw [haddr] at hfetch
  rw [hval]
  exact hfetch

include hen

/-- The write of the loaded byte of index k and its send, after which the transmit goes on to t. -/
theorem runs_sendByte {k : Nat} {v : Byte} (hv : bs[k]? = some v) {t : State}
    (hadv : ∀ l q, advance .ptPoll (operandWords i).1 (operandWords i).2
      (State.withPending { sending u c ch bs k v with chans := l } q) =
        .ok (State.withPending { t with chans := l } q)) :
    Runs [.sequencer, .lineTx c] { sending u c ch bs k v with pphase := .ptWrite }
      { t with chans := (u.setChan c (ch.wired (bs.take (k + 1)))).chans } := by
  have hwrite := runs_writeByte (s := { sending u c ch bs k v with pphase := .ptWrite })
    ⟨h.busy, h.decodes, h.portTurn⟩ hpc (sending_chan? hc k v) rfl hen hbuf hdepth (hadv _)
  refine hwrite.of_eq rfl ?_
  have hbytes : bs.take (k + 1) = bs.take k ++ [v] := by rw [List.take_add_one, hv, Option.toList_some]
  rw [hbytes, ← wired_wired]
  have hchans : (State.setChan { sending u c ch bs k v with pphase := .ptWrite } c
      ((ch.wired (bs.take k)).wired [v])).chans = (u.setChan c ((ch.wired (bs.take k)).wired [v])).chans :=
    setChan_chans_of_setChan rfl
  exact congrArg (fun l => { t with chans := l }) hchans

include hlen

/-- All the bytes from index k on, where each takes j turns to load. -/
theorem runs_sendBytes {j : Nat} (hbs : bs.length = n.toNat)
    (hload : ∀ k v d, bs[k]? = some v →
      Runs (turns j) (sending u c ch bs k d) { sending u c ch bs k v with pphase := .ptWrite })
    (m : Nat) {k : Nat} (hk : k + (m + 1) = n.toNat) (d : Byte) :
    ∃ d', ∀ v, EndsTransmit (operandWords i).1 (operandWords i).2 { u with pphase := .idle, pIdx := n, pD := d' } v →
      Runs (promptBytes c (j + 1) (m + 1)) (sending u c ch bs k d)
        { v with chans := (u.setChan c (ch.wired bs)).chans } := by
  have hturns : turns (j + 1) ++ [.lineTx c] = turns j ++ [.sequencer, .lineTx c] := by
    rw [turns_add, List.append_assoc]
    rfl
  induction m generalizing k d with
  | zero =>
    obtain ⟨v, hv⟩ : ∃ v, bs[k]? = some v := ⟨_, List.getElem?_eq_getElem (by omega)⟩
    have hall : bs.take (k + 1) = bs := List.take_of_length_le (by omega)
    refine ⟨v, fun w hend => ?_⟩
    have hsend := runs_sendByte h hpc hc hen hbuf hdepth hv (t := w) fun l q =>
      (advance_of_last_byte (u := State.withPending { sending u c ch bs k v with chans := l } q) hlen rfl hk).trans
        (hend l q)
    rw [hall] at hsend
    exact ((hload k v d hv).append hsend).of_eq (hturns.symm.trans (List.append_nil _).symm) rfl
  | succ m ih =>
    obtain ⟨v, hv⟩ : ∃ v, bs[k]? = some v := ⟨_, List.getElem?_eq_getElem (by omega)⟩
    obtain ⟨d', hrest⟩ := ih (k := k + 1) (by omega) v
    refine ⟨d', fun w hend => ?_⟩
    have hsend := runs_sendByte h hpc hc hen hbuf hdepth hv (t := sending u c ch bs (k + 1) v) fun l q =>
      advance_of_earlier_byte (u := State.withPending { sending u c ch bs k v with chans := l } q) hlen rfl (by omega)
    exact (((hload k v d hv).append hsend).append (hrest w hend)).of_eq (congrArg (· ++ _) hturns.symm) rfl

end

/-! ## CH_TX -/

/-- The operation that was sending in the state u is over, with the bytes bs sent on channel c. -/
structure Transmitted (u : State) (c : Nat) (ch : Channel) (bs : List Byte) (t : State) : Prop where
  bstat : t.bstat = .idle
  mem : t.mem = u.mem
  chans : t.chans = (u.setChan c (ch.wired bs)).chans
  descriptor : t.descriptor = u.descriptor
  res0 : t.res0 = u.res0
  res1 : t.res1 = u.res1

section
variable {k : Nat} {a n : Word} {u : State} {c : Nat} {ch : Channel} (h : Executing (.chTx k a n) u)
  (hpc : u.pCh.toNat = c) (hc : u.chan? c = some ch) (hen : ch.enabled) (hbuf : ch.txbuf = [])
  (hdepth : 1 ≤ u.params.txDepth) (hp : u.pphase = .ptPoll) (hidx : u.pIdx = 0#32)
  (hadm : admitted u.params a.toNat n.toNat = true)
include h hpc hc hen hbuf hdepth hp hidx hadm

/-- The payload, whose end is the end of the operation. -/
theorem runs_chTx_payload (hf : u.fphase = .ctPayload) (hs : u.pSrc = .mem a) (hlen : u.pLen = n) (hn : n ≠ 0#32) :
    ∃ t, Runs (promptBytes c 3 n.toNat) u t ∧
      Transmitted u c ch (Memory.readRange u.mem a.toNat n.toNat) t := by
  obtain ⟨m, hm⟩ : ∃ m, n.toNat = m + 1 := Nat.exists_eq_succ_of_ne_zero fun h0 => hn (BitVec.toNat_inj.mp h0)
  obtain ⟨d, hrun⟩ := runs_sendBytes h hpc hc hen hbuf hdepth hlen (Memory.readRange_length _ _ _)
    (fun k v d hv => runs_loadPayload h hpc hc hbuf hdepth hs rfl hadm hv d) m (k := 0) (by omega) u.pD
  have hrun := hrun (complete { u with pIdx := n, pD := d }) fun l q => finishTransfer_of_ctPayload (by exact hf)
  rw [sending_zero _ hc hp hidx, ← hm] at hrun
  exact ⟨_, hrun, rfl, rfl, rfl, rfl, rfl, rfl⟩

/-- The length from LENBUF, whose end starts the payload where there is one. -/
theorem runs_chTx_packet (hf : u.fphase = .ctLen) (hs : u.pSrc = .len) (hlen : u.pLen = 4#32) :
    ∃ t, Runs (promptBytes c 2 4 ++ promptBytes c 3 n.toNat) u t ∧
      Transmitted u c ch (u.lenBuf.toList ++ Memory.readRange u.mem a.toNat n.toNat) t := by
  obtain ⟨d, hrun⟩ := runs_sendBytes h hpc hc hen hbuf hdepth hlen (bs := u.lenBuf.toList) rfl
    (fun k v d hv => runs_loadLen h hpc hc hbuf hdepth hs rfl hv d) 3 (k := 0) rfl u.pD
  rw [sending_zero _ hc hp hidx] at hrun
  by_cases hn : n = 0#32
  case pos =>
    subst hn
    have hrun := hrun (complete { u with pIdx := 4#32, pD := d }) fun l q =>
      (finishTransfer_of_ctLen (by exact hf)).trans (afterLength_of_zero a _)
    exact ⟨_, hrun, rfl, rfl, by simp, rfl, rfl, rfl⟩
  case neg =>
    have hrun := hrun (startTx u.pCh (.mem a) n { u with pD := d, fphase := .ctPayload }) fun l q =>
      (finishTransfer_of_ctLen (by exact hf)).trans (afterLength_of_ne_zero hn a _)
    let l := (u.setChan c (ch.wired u.lenBuf.toList)).chans
    obtain ⟨t, hpay, hb, hm, hch, hd, h0, h1⟩ := runs_chTx_payload (c := c) (ch := ch.wired u.lenBuf.toList)
      (u := { startTx u.pCh (.mem a) n { u with pD := d, fphase := .ctPayload } with chans := l })
      ⟨h.busy, h.decodes, by simp [State.portTurn]⟩ hpc ((chan?_congr rfl c).trans (chan?_setChan_same _ hc)) hen hbuf
      hdepth rfl rfl hadm rfl rfl rfl hn
    rw [wired_wired] at hch
    exact ⟨t, hrun.append hpay, hb, hm, hch.trans (setChan_chans_of_setChan rfl), hd, h0, h1⟩

end

/-- Caller memory after the encode of a CH_TX (R197, R198). -/
def encodedMem (g : ChannelConfig) (a n : Word) (m : List Host.Cell) : List Host.Cell :=
  match g.transform with
  | none => m
  | some x => if n = 0#32 then m else transformMem x .encode m a.toNat n.toNat

/-- A CH_TX on configuration k that starts to send its length. -/
def startsPacket (s : State) (k : Nat) (g : ChannelConfig) (a n : Word) : State :=
  { s with
    curCfg := BitVec.ofNat 8 k, lenBuf := serialise s.params.nativeOrder n, mem := encodedMem g a n s.mem
    fphase := .ctLen, pCh := g.channel, pSrc := .len, pLen := 4#32, pIdx := 0#32, pphase := .ptPoll }

/-- An admitted range does not wrap, whether it is empty or not. -/
theorem range_le_of_admitted {p : Params} {a n : Word} (h : admitted p a.toNat n.toNat = true) :
    a.toNat + n.toNat ≤ 4294967296 := by
  have := a.isLt
  by_cases hn : n.toNat = 0
  · omega
  · exact ((admitted_of_pos (Nat.pos_of_ne_zero hn)).mp h).1

/-- The index of a configuration fits CUR_CFG. -/
theorem config_of_curCfg {s : State} {k : Nat} {g : ChannelConfig} (hinv : Inv s) (hg : s.params.configs[k]? = some g) :
    s.params.configs[(BitVec.ofNat 8 k).toNat]? = some g := by
  obtain ⟨⟨⟨-, -, -, -, -, h256, -, -⟩, -⟩, -⟩ := hinv
  obtain ⟨hk, -⟩ := List.getElem?_eq_some_iff.mp hg
  rwa [toNat_ofNat_of_lt (by omega)]

/-- Step 1 of a CH_TX that is accepted, and its encode where its configuration has a transform. -/
theorem runs_chTx_start {s : State} {k : Nat} {a n : Word} {g : ChannelConfig} (hinv : Inv s) (hb : s.bstat = .busy)
    (hstart : s.atStart = true) (hd : decode s.descriptor = .ok (.chTx k a n)) (hg : s.params.configs[k]? = some g)
    (h1 : 1 ≤ g.channel.toNat) (h2 : g.channel.toNat ≤ s.params.nChannels) (hr : s.isReady g.channel.toNat = true)
    (hop : n = 0#32 ∨ (a ≠ 0#32 ∧ admitted s.params a.toNat n.toNat = true)) :
    Runs (turns (if g.transform = none then 1 else 2)) s (startsPacket s k g a n) := by
  have haccept (q : List Move) := chTxAccepts (s.withPending q) k a n g hstart hg h1 h2
    ((isReady_congr rfl _).trans hr) hop
  cases hx : g.transform with
  | none =>
    refine runs_of_exec hb hd fun q => ((haccept q).2 hx).trans ?_
    simp only [startsPacket, encodedMem, hx]
    rfl
  | some x =>
    let u := { s with
      curCfg := BitVec.ofNat 8 k, lenBuf := serialise s.params.nativeOrder n, fphase := .ctEncode }
    have hfirst : Runs [.sequencer] s u := runs_of_exec hb hd fun q => (haccept q).1 (by simp [hx])
    have hencode : Runs [.sequencer] u (startsPacket s k g a n) := by
      refine runs_of_exec hb hd fun q => exec_of_continueOp (by simp [u, State.withPending]) ?_
      simp only [startsPacket, encodedMem, hx]
      exact stepCtEncode_of_transform (s := u.withPending q) (config_of_curCfg (s := s) hinv hg) hx
        (range_le_of_admitted (admitted_of_operand hop))
    exact hfirst.append hencode

/-- Settles O41: step 1 and the encode, and then the length and the payload. -/
theorem chTxRun : Obligations.ChTxRun := by
  intro s k a n g ch rest hinv hb hstart hd hg hc hr hbuf hop c mem' first hp
  obtain ⟨h1, h2, -, hready, hen, -, hdepth⟩ := channel_at_start hinv hb hstart hc hr
  have hfirst := runs_chTx_start hinv hb hstart hd hg h1 h2 hready hop
  obtain ⟨t, hpacket, hidle, hmem, hchans, hdesc, h0, h1⟩ := runs_chTx_packet (u := startsPacket s k g a n) (c := c)
    ⟨hb, hd, by simp [State.portTurn, startsPacket]⟩ rfl ((chan?_congr rfl c).trans hc) hen hbuf hdepth rfl rfl
    (admitted_of_operand hop) rfl rfl rfl
  have hrun := (hfirst.append hpacket).steps (rest := rest) (by rw [hp, List.append_assoc (turns first)])
  have hlen : (turns first ++ (promptBytes c 2 4 ++ promptBytes c 3 n.toNat)).length = first + 3 * 4 + 4 * n.toNat := by
    simp only [List.length_append, promptBytes_length, turns, List.length_replicate]
    omega
  rw [hlen] at hrun
  have hchans := hchans.trans (setChan_chans_congr (s := s) (t := startsPacket s k g a n) rfl c _)
  refine ⟨_, hrun, hidle, rfl, hmem, ?own, fun c' hne => ?other, hdesc, h0, h1⟩
  case own =>
    rw [withPending_chan?, chan?_congr hchans, chan?_setChan_same _ hc, Channel.wired, ← List.append_assoc]
    rfl
  case other => rw [withPending_chan?, chan?_congr hchans, chan?_setChan_other _ hne]

end Sys2Proof.Machine
end

section
/-! SUPPORT. A whole CH_RX under JIT: the bytes of a receive that reports to ERRSUM, into any sink, by induction on the
arrivals, and then the length, the payload, the drain, the decode and the result (R164, R171, R202 to R209;
spec/95_test_vectors.md). -/

namespace Sys2Proof.Machine

/-! ## What a receive puts into its sink -/

/-- LENBUF and caller memory once the byte v of index k has gone to the sink. -/
def Source.put (sink : Source) (k : Nat) (v : Byte) (st : LenBuf × List Host.Cell) : LenBuf × List Host.Cell :=
  match sink with
  | .mem b => (st.1, Memory.write st.2 (b.toNat + k) v)
  | .len => ((st.1.set? k v).getD st.1, st.2)
  | .null => st

/-- LENBUF and caller memory once the bytes from index k on have gone to the sink. -/
def Source.putAll (sink : Source) (k : Nat) (vs : List Byte) (st : LenBuf × List Host.Cell) : LenBuf × List Host.Cell :=
  match vs with
  | [] => st
  | v :: vs => sink.putAll (k + 1) vs (sink.put k v st)

theorem putAll_mem (b : Word) (k : Nat) (vs : List Byte) (l : LenBuf) (m : List Host.Cell) :
    Source.putAll (.mem b) k vs (l, m) = (l, Memory.writeRange m (b.toNat + k) vs) := by
  induction vs generalizing k m with
  | nil => rfl
  | cons v vs ih => exact ih (k + 1) (Memory.write m (b.toNat + k) v)

theorem putAll_null (k : Nat) (vs : List Byte) (st : LenBuf × List Host.Cell) : Source.putAll .null k vs st = st := by
  induction vs generalizing k with
  | nil => rfl
  | cons v vs ih => exact ih (k + 1)

theorem putAll_len (v0 v1 v2 v3 : Byte) (st : LenBuf × List Host.Cell) :
    Source.putAll .len 0 [v0, v1, v2, v3] st = (⟨v0, v1, v2, v3⟩, st.2) := rfl

/-- The sink has a place for the byte of index k. -/
def Source.Fits (sink : Source) (k : Nat) : Prop :=
  match sink with
  | .mem b => b.toNat + k < 4294967296
  | .len => k < 4
  | .null => True

/-- The turns of the sequencer that a byte takes after its poll: the read, and the store into a buffer. -/
def Source.readTurns : Source → Nat
  | .mem _ => 2
  | .len | .null => 1

/-- ERRSUM once the errors of the arrivals have been merged into it. -/
def mergeAll (e : Byte) (es : List RxEntry) : Byte := es.foldl (fun acc x => acc ||| x.bits) e

theorem mergeAll_append (e : Byte) (es es' : List RxEntry) : mergeAll e (es ++ es') = mergeAll (mergeAll e es) es' :=
  List.foldl_append

/-! ## The bytes of a receive -/

/-- The step f takes u to v, whatever the schedule. -/
def Ends (f : State → Except Fault State) (u v : State) : Prop := ∀ q, f (u.withPending q) = .ok (v.withPending q)

/-- The receive u that polls for the byte of index k, with st in LENBUF and caller memory, e in ERRSUM, and w, d and p
left in P_S, P_D and P_E by the bytes before it. -/
def receiving (u : State) (k : Nat) (st : LenBuf × List Host.Cell) (e : Byte) (w : Word) (d p : Byte) : State :=
  { u with
    pphase := .prPoll, pIdx := BitVec.ofNat 32 k, lenBuf := st.1, mem := st.2, errSum := e, pS := w, pD := d, pE := p }

/-- The receive u after its n bytes. -/
def received (u : State) (n : Word) (st : LenBuf × List Host.Cell) (e : Byte) (w : Word) (d p : Byte) : State :=
  { u with pphase := .idle, pIdx := n, lenBuf := st.1, mem := st.2, errSum := e, pS := w, pD := d, pE := p }

/-- The channel takes what arrives and holds nothing. -/
structure Channel.Listening (ch : Channel) : Prop where
  enabled : ch.enabled
  oerr : ch.oerr = false
  rxfifo : ch.rxfifo = []

/-- The read of an entry that goes to LENBUF, after which the transfer goes on to t. -/
theorem runs_prRead_len {i : Instr} {s t : State} {c : Nat} {ch : Channel} {x : RxEntry} {xs : List RxEntry}
    {l : LenBuf} (h : Executing i s) (hpc : s.pCh.toNat = c) (hc : s.chan? c = some ch) (hp : s.pphase = .prRead)
    (hx : ch.rxfifo = x :: xs) (hs : s.pSrc = .len) (hl : s.lenBuf.set? s.pIdx.toNat x.data = some l)
    (hadv : Ends (advance .prPoll (operandWords i).1 (operandWords i).2)
      { s with chans := (s.setChan c { ch with rxfifo := xs }).chans, pD := x.data, lenBuf := l } t) :
    Runs [.sequencer] s t := by
  subst hpc
  refine runs_of_portStep h (by simp [hp]) fun q => ?_
  rw [portStep_prRead (s := s.withPending q) hp,
    stepPrRead_of_entry_len (s := s.withPending q) ((withPending_chan? ..).trans hc) hx hs hl, ← hadv q,
    withPending_setChan, setChan_eq]
  rfl

section
variable {i : Instr} {u : State} {c : Nat} {ch : Channel} {n : Word} (h : Executing i u) (hpc : u.pCh.toNat = c)
  (hc : u.chan? c = some ch) (hch : ch.Listening) (hdepth : 1 ≤ u.params.rxDepth) (herr : u.pErr = .sum)
  (hlen : u.pLen = n)
include h hpc hc hch

/-- The read of the entry that has been polled, and its store, take it to the sink and leave the channel as it was before
the arrival. -/
theorem runs_sinkByte {k : Nat} (hk : k < n.toNat) (hfits : u.pSrc.Fits k) (x : RxEntry) (st : LenBuf × List Host.Cell)
    (e : Byte) (w : Word) (d : Byte) {t : State}
    (hadv : Ends (advance .prPoll (operandWords i).1 (operandWords i).2)
      (receiving u k (u.pSrc.put k x.data st) e w x.data x.bits) t) :
    Runs (turns u.pSrc.readTurns) { receiving u k st e w d x.bits with
      pphase := .prRead, chans := (u.setChan c { ch with rxfifo := [x] }).chans } t := by
  let r := { receiving u k st e w d x.bits with
    pphase := .prRead, chans := (u.setChan c { ch with rxfifo := [x] }).chans }
  have hexec : Executing i r := ⟨h.busy, h.decodes, h.portTurn⟩
  have hchan : r.chan? c = some { ch with rxfifo := [x] } := (chan?_congr rfl c).trans (chan?_setChan_same _ hc)
  have hback : (r.setChan c { ch with rxfifo := [] }).chans = u.chans := by
    have hempty : { ch with rxfifo := [] } = ch := by rw [← hch.rxfifo]
    rw [setChan_chans_of_setChan (s := u) (t := r) rfl, hempty, setChan_self hc]
  cases hs : u.pSrc with
  | mem b =>
    rw [hs] at hadv hfits
    have haddr : byteAddr b r.pIdx = b.toNat + k := byteAddr_ofNat hk
    have hread := runs_prRead hexec hpc hchan rfl rfl (b := b) hs
    rw [hback] at hread
    refine hread.append (runs_prStore (s := { r with chans := u.chans, pD := x.data, pphase := .prStore })
      ⟨h.busy, h.decodes, h.portTurn⟩ rfl hs (haddr ▸ hfits) fun q => ?_)
    rw [haddr]
    exact hadv q
  | len =>
    rw [hs] at hadv hfits
    have hidx : r.pIdx.toNat = k := by
      have : k < 4 := hfits
      exact (BitVec.toNat_ofNat k 32).trans (Nat.mod_eq_of_lt (by omega))
    obtain ⟨l, hl⟩ := lenBuf_set?_of_lt st.1 x.data hfits
    simp only [Source.put, hl, Option.getD_some] at hadv
    refine runs_prRead_len hexec hpc hchan rfl rfl hs (hidx ▸ hl) fun q => ?_
    rw [hback]
    exact hadv q
  | null =>
    rw [hs] at hadv
    refine runs_prRead_null hexec hpc hchan rfl rfl hs fun q => ?_
    rw [hback]
    exact hadv q

include hdepth herr

/-- One arrival, which goes to the sink, after which the receive goes on to t. -/
theorem runs_receiveByte {k : Nat} (hk : k < n.toNat) (hfits : u.pSrc.Fits k) (x : RxEntry)
    (st : LenBuf × List Host.Cell) (e : Byte) (w : Word) (d p : Byte) :
    ∃ w', ∀ t, Ends (advance .prPoll (operandWords i).1 (operandWords i).2)
        (receiving u k (u.pSrc.put k x.data st) (e ||| x.bits) w' x.data x.bits) t →
      Runs (.lineRx c x.data x.pe x.fe :: turns (1 + u.pSrc.readTurns)) (receiving u k st e w d p) t := by
  have harrival := runs_arrival (s := receiving u k st e w d p) (x := x) ((chan?_congr rfl c).trans hc) hch.enabled
    hch.oerr hch.rxfifo hdepth
  rw [setChan_chans_congr (s := u) (t := receiving u k st e w d p) rfl] at harrival
  have hpoll := runs_prPoll (s := { receiving u k st e w d p with
      chans := (u.setChan c { ch with rxfifo := [x] }).chans }) ⟨h.busy, h.decodes, h.portTurn⟩ hpc
    ((chan?_congr rfl c).trans (chan?_setChan_same _ hc)) rfl rfl
  rw [mergeErrors_of_sum _ (by exact herr)] at hpoll
  refine ⟨Channel.statusWord u.params.txDepth { ch with rxfifo := [x] }, fun t hadv => ?_⟩
  have hsink := runs_sinkByte h hpc hc hch hk hfits x st (e ||| x.bits) _ d hadv
  rw [turns_add]
  exact harrival.append (hpoll.append hsink)

include hlen

/-- The arrivals still to come, from index k on. -/
theorem runs_receiveBytes (hfits : ∀ k, k < n.toNat → u.pSrc.Fits k) {es : List RxEntry} (hne : es ≠ []) {k : Nat}
    (hk : k + es.length = n.toNat) (st : LenBuf × List Host.Cell) (e : Byte) (w : Word) (d p : Byte) :
    ∃ w' d' p', ∀ t, Ends (finishTransfer (operandWords i).1 (operandWords i).2)
        (received u n (u.pSrc.putAll k (es.map RxEntry.data) st) (mergeAll e es) w' d' p') t →
      Runs (jitBytes c (fun _ => 1 + u.pSrc.readTurns) es) (receiving u k st e w d p) t := by
  induction es generalizing k st e w d p with
  | nil => contradiction
  | cons x es ih =>
    rw [List.length_cons] at hk
    obtain ⟨w', hbyte⟩ := runs_receiveByte h hpc hc hch hdepth herr (n := n) (k := k) (by omega)
      (hfits k (by omega)) x st e w d p
    cases es with
    | nil =>
      refine ⟨w', x.data, x.bits, fun t hend => (hbyte t fun q => ?_).of_eq (List.append_nil _).symm rfl⟩
      exact (advance_of_last_byte (n := n) (by exact hlen) rfl hk).trans (hend q)
    | cons y ys =>
      obtain ⟨w'', d'', p'', hrest⟩ := ih (by simp) (k := k + 1) (by omega) (u.pSrc.put k x.data st) (e ||| x.bits) w'
        x.data x.bits
      refine ⟨w'', d'', p'', fun t hend => (hbyte _ fun q => ?_).append (hrest t hend)⟩
      exact advance_of_earlier_byte (n := n) (by exact hlen) rfl (by simp at hk; omega)

end

/-! ## The phases of a CH_RX -/

/-- A CH_RX on configuration k, which is g, is in progress, and the channel that it receives on is ch. -/
structure InChRx (k : Nat) (b m : Word) (g : ChannelConfig) (ch : Channel) (u : State) : Prop where
  busy : u.bstat = .busy
  decodes : decode u.descriptor = .ok (.chRx k b m)
  config : u.params.configs[u.curCfg.toNat]? = some g
  pCh : u.pCh = g.channel
  chan : u.chan? g.channel.toNat = some ch
  listening : ch.Listening
  depth : 1 ≤ u.params.rxDepth

/-- What a step leaves alone while a CH_RX goes on. -/
theorem InChRx.update {k : Nat} {b m : Word} {g : ChannelConfig} {ch : Channel} {u v : State} (h : InChRx k b m g ch u)
    (hb : v.bstat = u.bstat) (hd : v.descriptor = u.descriptor) (hp : v.params = u.params) (hk : v.curCfg = u.curCfg)
    (hpc : v.pCh = u.pCh) (hch : v.chans = u.chans) : InChRx k b m g ch v where
  busy := hb.trans h.busy
  decodes := hd ▸ h.decodes
  config := by rw [hp, hk, h.config]
  pCh := hpc.trans h.pCh
  chan := (chan?_congr hch _).trans h.chan
  listening := h.listening
  depth := hp ▸ h.depth

/-- The operation is over, with what it has delivered, and has left the channels of the state u as they were. -/
structure Delivered (u : State) (pkt : Word) (err : Byte) (m : List Host.Cell) (t : State) : Prop where
  bstat : t.bstat = .idle
  res0 : t.res0 = pkt
  res1 : t.res1 = err.setWidth 32
  mem : t.mem = m
  chans : t.chans = u.chans
  descriptor : t.descriptor = u.descriptor

/-- Caller memory after the decode of a CH_RX that has stored `recv` bytes (R202, R208). -/
def decodedMem (g : ChannelConfig) (b : Word) (recv : Nat) (m : List Host.Cell) : List Host.Cell :=
  match g.transform with
  | none => m
  | some x => if recv = 0 then m else transformMem x .decode m b.toNat recv

theorem toNat_minWord (x y : Word) : (minWord x y).toNat = min x.toNat y.toNat := by
  unfold minWord
  split
  case isTrue h => exact (Nat.min_eq_left (BitVec.le_def.mp h)).symm
  case isFalse h => exact (Nat.min_eq_right (Nat.le_of_not_le (BitVec.le_def.not.mp h))).symm

section
variable {k : Nat} {b m : Word} {g : ChannelConfig} {ch : Channel} {u : State} (h : InChRx k b m g ch u)
include h

theorem runs_crResult (hf : u.fphase = .crResult) : Runs (turns 1) u (stepCrResult u) :=
  runs_of_exec h.busy h.decodes fun q => exec_of_continueOp (by simp [State.withPending, hf]) (continueOp_crResult hf)

theorem runs_crDecode (hf : u.fphase = .crDecode) {x : Transform} (hx : g.transform = some x)
    (hle : b.toNat + u.recvLen.toNat ≤ 4294967296) :
    Runs (turns 1) u { u with mem := decodedMem g b u.recvLen.toNat u.mem, fphase := .crResult } := by
  refine runs_of_exec h.busy h.decodes fun q => exec_of_continueOp (by simp [State.withPending, hf]) ?_
  simp only [decodedMem, hx]
  exact (continueOp_crDecode (s := u.withPending q) hf).trans
    (exceptBind_of_ok (transformRange_of_transform (s := u.withPending q) .decode h.config hx hle))

/-- After the last byte: the decode where there is a transform, and the result. -/
theorem runs_afterDrain (hle : b.toNat + u.recvLen.toNat ≤ 4294967296) :
    ∃ v t, Ends afterDrain u v ∧ Runs (turns (if g.transform = none then 1 else 2)) v t ∧
      Delivered u u.pktLen u.errSum (decodedMem g b u.recvLen.toNat u.mem) t := by
  refine ⟨{ u with fphase := if g.transform = none then .crResult else .crDecode, pphase := .idle },
    stepCrResult { u with mem := decodedMem g b u.recvLen.toNat u.mem },
    fun q => afterDrain_of_config (s := u.withPending q) h.config, ?_, rfl, rfl, rfl, rfl, rfl, rfl⟩
  cases hx : g.transform with
  | none =>
    have hsame : decodedMem g b u.recvLen.toNat u.mem = u.mem := by simp only [decodedMem, hx]
    rw [hsame]
    exact runs_crResult (u := { u with fphase := .crResult, pphase := .idle }) (h.update rfl rfl rfl rfl rfl rfl) rfl
  | some x =>
    have hdecode := runs_crDecode (u := { u with fphase := .crDecode, pphase := .idle })
      (h.update rfl rfl rfl rfl rfl rfl) rfl hx hle
    exact hdecode.append (runs_crResult (h.update rfl rfl rfl rfl rfl rfl) rfl)

/-- A receive from its first poll on: all its arrivals, after which its end leads on. -/
theorem runs_receive {n : Word} (hport : u.portTurn) (hp : u.pphase = .prPoll) (hidx : u.pIdx = 0#32)
    (herr : u.pErr = .sum) (hlen : u.pLen = n) (hfits : ∀ j, j < n.toNat → u.pSrc.Fits j) {es : List RxEntry}
    (hne : es ≠ []) (hes : es.length = n.toNat) :
    ∃ w d p, ∀ t, Ends (finishTransfer b m)
        (received u n (u.pSrc.putAll 0 (es.map RxEntry.data) (u.lenBuf, u.mem)) (mergeAll u.errSum es) w d p) t →
      Runs (jitBytes g.channel.toNat (fun _ => 1 + u.pSrc.readTurns) es) u t := by
  have hstart : receiving u 0 (u.lenBuf, u.mem) u.errSum u.pS u.pD u.pE = u := by
    rw [receiving, ← hp, show BitVec.ofNat 32 0 = u.pIdx from hidx.symm]
  have hrun := runs_receiveBytes ⟨h.busy, h.decodes, hport⟩ (congrArg BitVec.toNat h.pCh) h.chan h.listening h.depth
    herr hlen hfits hne ((Nat.zero_add _).trans hes) (u.lenBuf, u.mem) u.errSum u.pS u.pD u.pE
  rwa [hstart] at hrun

/-- After the payload: the drain of the bytes that did not fit, and what follows it. -/
theorem runs_afterPayload (hle : b.toNat + u.recvLen.toNat ≤ 4294967296) {es : List RxEntry}
    (hes : u.recvLen.toNat + es.length = u.pktLen.toNat) :
    ∃ v t, Ends afterPayload u v ∧
      Runs (jitBytes g.channel.toNat (fun _ => 2) es ++ turns (if g.transform = none then 1 else 2)) v t ∧
      Delivered u u.pktLen (mergeAll u.errSum es) (decodedMem g b u.recvLen.toNat u.mem) t := by
  by_cases hne : es = []
  case pos =>
    subst hne
    have hall : u.recvLen.toNat = u.pktLen.toNat := hes
    have hnot : ¬u.recvLen < u.pktLen := fun hlt => (BitVec.lt_def.mp hlt).ne hall
    obtain ⟨v, t, hend, hrun, hdel⟩ := runs_afterDrain h hle
    exact ⟨v, t, fun q => (afterPayload_of_not_lt (by exact hnot)).trans (hend q), hrun, hdel⟩
  case neg =>
    have hpos := List.length_pos_iff.mpr hne
    have hlt : u.recvLen < u.pktLen := BitVec.lt_def.mpr (by omega)
    have hrest : es.length = (u.pktLen - u.recvLen).toNat := by
      rw [BitVec.toNat_sub_of_le (BitVec.le_of_lt hlt)]
      omega
    let v := startRx u.pCh .null (u.pktLen - u.recvLen) .sum { u with fphase := .crDrain }
    obtain ⟨w, d, p, hbytes⟩ := runs_receive (u := v) (h.update rfl rfl rfl rfl rfl rfl)
      (portTurn_of_cr (.inr (.inr rfl))) rfl rfl rfl rfl (fun _ _ => trivial) hne hrest
    have hnull : v.pSrc.putAll 0 (es.map RxEntry.data) (v.lenBuf, v.mem) = (u.lenBuf, u.mem) := putAll_null ..
    rw [hnull] at hbytes
    obtain ⟨v', t, hend, hrun, hb, h0, h1, hm, hch, hd⟩ := runs_afterDrain
      (u := received v (u.pktLen - u.recvLen) (u.lenBuf, u.mem) (mergeAll u.errSum es) w d p)
      (h.update rfl rfl rfl rfl rfl rfl) hle
    have hdrain := hbytes v' fun q => (finishTransfer_of_crDrain rfl).trans (hend q)
    exact ⟨v, t, fun q => afterPayload_of_lt (s := u.withPending q) hlt, hdrain.append hrun, hb, h0, h1, hm, hch, hd⟩

/-- After the length: the payload that fits the buffer, if there is any, and what follows it. -/
theorem runs_afterPrefix {pkt : Word} (hpkt : assemble u.params.nativeOrder u.lenBuf = pkt)
    (hadm : admitted u.params b.toNat m.toNat = true) {es : List RxEntry} (hes : es.length = pkt.toNat) {recv : Nat}
    (hrecv : recv = min pkt.toNat m.toNat) :
    ∃ v t, Ends (afterPrefix b m) u v ∧
      Runs (jitBytes g.channel.toNat (fun _ => 3) (es.take recv) ++
        (jitBytes g.channel.toNat (fun _ => 2) (es.drop recv) ++ turns (if g.transform = none then 1 else 2))) v t ∧
      Delivered u pkt (mergeAll u.errSum es)
        (decodedMem g b recv (Memory.writeRange u.mem b.toNat ((es.take recv).map RxEntry.data))) t := by
  have hr : (minWord pkt m).toNat = recv := (toNat_minWord pkt m).trans hrecv.symm
  have hle : b.toNat + (minWord pkt m).toNat ≤ 4294967296 := by
    have := range_le_of_admitted hadm
    omega
  by_cases hzero : minWord pkt m = 0#32
  case pos =>
    obtain rfl : recv = 0 := hr.symm.trans (congrArg BitVec.toNat hzero)
    obtain ⟨v, t, hend, hrun, hdel⟩ := runs_afterPayload (u := { u with pktLen := pkt, recvLen := minWord pkt m })
      (h.update rfl rfl rfl rfl rfl rfl) hle (es := es) (by simp [hr, hes])
    rw [hr] at hdel
    obtain ⟨hb, h0, h1, hm, hch, hd⟩ := hdel
    exact ⟨v, t, fun q => (afterPrefix_of_zero (by exact hpkt) rfl hzero).trans (hend q), hrun, hb, h0, h1, hm, hch, hd⟩
  case neg =>
    have hpos := BitVec.lt_def.mp (word_pos.mpr hzero)
    have hlen : (es.take recv).length = (minWord pkt m).toNat := by
      rw [List.length_take]
      omega
    have hrest : (minWord pkt m).toNat + (es.drop recv).length = pkt.toNat := by
      rw [List.length_drop]
      omega
    have herrs : mergeAll (mergeAll u.errSum (es.take recv)) (es.drop recv) = mergeAll u.errSum es := by
      rw [← mergeAll_append, List.take_append_drop]
    let v := startRx u.pCh (.mem b) (minWord pkt m) .sum
      { u with pktLen := pkt, recvLen := minWord pkt m, fphase := .crPayload }
    obtain ⟨w, d, p, hbytes⟩ := runs_receive (u := v) (n := minWord pkt m) (h.update rfl rfl rfl rfl rfl rfl)
      (portTurn_of_cr (.inr (.inl rfl))) rfl rfl rfl rfl (fun j hj => show b.toNat + j < 4294967296 by omega)
      (List.ne_nil_of_length_pos (hlen ▸ hpos)) hlen
    have hput : v.pSrc.putAll 0 ((es.take recv).map RxEntry.data) (v.lenBuf, v.mem) =
      (u.lenBuf, Memory.writeRange u.mem b.toNat ((es.take recv).map RxEntry.data)) := putAll_mem ..
    rw [hput] at hbytes
    obtain ⟨v', t, hend, hrun, hb, h0, h1, hm, hch, hd⟩ := runs_afterPayload (u := received v (minWord pkt m)
        (u.lenBuf, Memory.writeRange u.mem b.toNat ((es.take recv).map RxEntry.data))
        (mergeAll u.errSum (es.take recv)) w d p)
      (h.update rfl rfl rfl rfl rfl rfl) hle hrest
    have hpayload := hbytes v' fun q => (finishTransfer_of_crPayload rfl).trans (hend q)
    exact ⟨v, t, fun q => afterPrefix_of_ne_zero (by exact hpkt) rfl hzero, hpayload.append hrun, hb, h0,
      h1.trans (congrArg (BitVec.setWidth 32) herrs), hr ▸ hm, hch, hd⟩

end

/-- Settles O44: step 1 and the length, and then what follows the length. -/
theorem chRxRun : Obligations.ChRxRun := by
  intro s k b m g ch x0 x1 x2 x3 body rest hinv hb hstart hd hg hc hr hx ho hop c l recv last stored moves hbody hp
  obtain ⟨hpos, hle, -, hready, hen, hdepth, -⟩ := channel_at_start hinv hb hstart hc hr
  let u := startRx g.channel .len 4#32 .sum { s with curCfg := BitVec.ofNat 8 k, errSum := 0#8, fphase := .crLen }
  have hfirst : Runs (turns 1) s u := runs_of_exec hb hd fun q =>
    chRxAccepts (s.withPending q) k b m g hstart hg hpos hle ((isReady_congr rfl _).trans hready) hop
  have hin : InChRx k b m g ch u := ⟨hb, hd, config_of_curCfg (s := s) hinv hg, rfl, (chan?_congr rfl _).trans hc,
    ⟨hen, ho, hx⟩, hdepth⟩
  obtain ⟨w, d, p, hlength⟩ := runs_receive (u := u) (n := 4#32) hin (portTurn_of_cr (.inl rfl)) rfl rfl rfl rfl
    (fun j hj => hj) (es := [x0, x1, x2, x3]) (by simp) rfl
  obtain ⟨v, t, hend, hrun, hidle, h0, h1, hm, hch, hdesc⟩ := runs_afterPrefix
    (u := received u 4#32 (⟨x0.data, x1.data, x2.data, x3.data⟩, s.mem) (mergeAll 0#8 [x0, x1, x2, x3]) w d p)
    (hin.update rfl rfl rfl rfl rfl rfl) (pkt := l) rfl (admitted_of_operand hop) hbody (recv := recv) rfl
  have hpacket := hlength v fun q => (finishTransfer_of_crLen rfl).trans (hend q)
  have hmoves : turns 1 ++ (jitBytes c (fun _ => 2) [x0, x1, x2, x3] ++ (jitBytes c (fun _ => 3) (body.take recv) ++
      (jitBytes c (fun _ => 2) (body.drop recv) ++ turns last))) = moves := by
    simp only [moves, List.append_assoc]
  have herrs : mergeAll (mergeAll 0#8 [x0, x1, x2, x3]) body = summaryOf ([x0, x1, x2, x3] ++ body) :=
    (mergeAll_append ..).symm
  exact ⟨_, ((hfirst.append (hpacket.append hrun)).of_eq hmoves rfl).steps hp, hidle, rfl, h0,
    h1.trans (congrArg (BitVec.setWidth 32) herrs), hm, fun c' => chan?_congr hch c', hdesc⟩

end Sys2Proof.Machine
end

section
/-! SUPPORT. The framed round trip: the bytes that a CH_TX puts on the wire, delivered just in time and without errors,
make a CH_RX store the packet as it was (R99, R197, R202, R210). -/

namespace Sys2Proof.Machine

/-! ## Delivery without errors -/

/-- A byte that arrives without errors. -/
def RxEntry.clean (v : Byte) : RxEntry := ⟨v, false, false⟩

theorem map_data_clean (vs : List Byte) : (vs.map RxEntry.clean).map RxEntry.data = vs := by
  rw [List.map_map]
  exact List.map_id vs

theorem clean_bits (v : Byte) : (RxEntry.clean v).bits = 0#8 :=
  show errBits false false = 0#8 by decide

theorem mergeAll_clean (e : Byte) (vs : List Byte) : mergeAll e (vs.map RxEntry.clean) = e := by
  induction vs generalizing e with
  | nil => rfl
  | cons v vs ih =>
    refine (ih (e ||| (RxEntry.clean v).bits)).trans ?_
    rw [clean_bits, BitVec.or_zero]

theorem mem_wf_of_inv {s : State} (h : Inv s) : Memory.wf s.mem = true := by
  obtain ⟨⟨-, -, -, hwf, -⟩, -⟩ := h
  exact hwf

/-! ## What the transforms leave in the range -/

section
variable {g : ChannelConfig} {x : Transform} (hx : g.transform = some x) {m : List Host.Cell}
  (hwf : Memory.wf m = true)
include hx hwf

theorem readRange_encodedMem {a n : Word} (h : a.toNat + n.toNat ≤ 4294967296) :
    Memory.readRange (encodedMem g a n m) a.toNat n.toNat =
      applyTransform x .encode (Memory.readRange m a.toNat n.toNat) := by
  by_cases hn : n = 0#32
  · simp [encodedMem, hx, hn]
  · simp only [encodedMem, hx, if_neg hn]
    exact readRange_transformMem hwf h

theorem readRange_decodedMem {b : Word} {vs : List Byte} (h : b.toNat + vs.length ≤ 4294967296) :
    Memory.readRange (decodedMem g b vs.length (Memory.writeRange m b.toNat vs)) b.toNat vs.length =
      applyTransform x .decode vs := by
  by_cases hn : vs.length = 0
  · simp [decodedMem, hx, List.length_eq_zero_iff.mp hn]
  · simp only [decodedMem, hx, if_neg hn]
    rw [readRange_transformMem (Memory.writeRange_wf hwf h) h, Memory.readRange_writeRange hwf h]

end

/-- The decode of what the encode has left gives the packet as it was before it. -/
theorem readRange_decodedMem_encodedMem {g g' : ChannelConfig} {a b n : Word} {m m' : List Host.Cell} {sent : List Byte}
    (hwf : Memory.wf m = true) (hwf' : Memory.wf m' = true) (h : a.toNat + n.toNat ≤ 4294967296)
    (h' : b.toNat + sent.length ≤ 4294967296)
    (hsent : sent = Memory.readRange (encodedMem g a n m) a.toNat n.toNat)
    (hundo : (g.transform = none ∧ g'.transform = none) ∨
      ∃ x y, g.transform = some x ∧ g'.transform = some y ∧
        ∀ bs, applyTransform y .decode (applyTransform x .encode bs) = bs) :
    Memory.readRange (decodedMem g' b sent.length (Memory.writeRange m' b.toNat sent)) b.toNat sent.length =
      Memory.readRange m a.toNat n.toNat := by
  obtain ⟨hx, hy⟩ | ⟨x, y, hx, hy, hinv⟩ := hundo
  case inl =>
    have hdecode : decodedMem g' b sent.length (Memory.writeRange m' b.toNat sent) =
      Memory.writeRange m' b.toNat sent := by simp only [decodedMem, hy]
    have hencode : encodedMem g a n m = m := by simp only [encodedMem, hx]
    rw [hdecode, Memory.readRange_writeRange hwf' h', hsent, hencode]
  case inr => rw [readRange_decodedMem hy hwf' h', hsent, readRange_encodedMem hx hwf h, hinv]

/-! ## The receive of a packet that fits -/

/-- A CH_RX of a packet that arrives without errors and fits the buffer stores and decodes all of it. -/
theorem chRx_of_clean_packet {s : State} {k : Nat} {b m : Word} {g : ChannelConfig} {ch : Channel} {l : LenBuf}
    {payload : List Byte} (hinv : Inv s) (hb : s.bstat = .busy) (hstart : s.atStart = true)
    (hd : decode s.descriptor = .ok (.chRx k b m)) (hg : s.params.configs[k]? = some g)
    (hc : s.chan? g.channel.toNat = some ch) (hr : ch.chst = .ready) (hx : ch.rxfifo = []) (ho : ch.oerr = false)
    (hop : m = 0#32 ∨ (b ≠ 0#32 ∧ admitted s.params b.toNat m.toNat = true))
    (hlen : payload.length = (assemble s.params.nativeOrder l).toNat) (hfits : payload.length ≤ m.toNat)
    (hp : s.pending = turns 1 ++ jitBytes g.channel.toNat (fun _ => 2) (l.toList.map RxEntry.clean) ++
      jitBytes g.channel.toNat (fun _ => 3) (payload.map RxEntry.clean) ++
      turns (if g.transform = none then 1 else 2)) :
    ∃ t, steps s.pending.length s = .next t ∧ t.bstat = .idle ∧ t.res0 = assemble s.params.nativeOrder l ∧
      t.res1 = 0#32 ∧
      t.mem = decodedMem g b payload.length (Memory.writeRange s.mem b.toNat payload) := by
  have hrecv : min (assemble s.params.nativeOrder l).toNat m.toNat = payload.length := by omega
  have htake : (payload.map RxEntry.clean).take payload.length = payload.map RxEntry.clean :=
    List.take_of_length_le (by simp)
  have hdrop : (payload.map RxEntry.clean).drop payload.length = [] := List.drop_of_length_le (by simp)
  have hmoves : s.pending = turns 1 ++ jitBytes g.channel.toNat (fun _ => 2) (l.toList.map RxEntry.clean) ++
      jitBytes g.channel.toNat (fun _ => 3) ((payload.map RxEntry.clean).take
        (min (assemble s.params.nativeOrder l).toNat m.toNat)) ++
      jitBytes g.channel.toNat (fun _ => 2) ((payload.map RxEntry.clean).drop
        (min (assemble s.params.nativeOrder l).toNat m.toNat)) ++
      turns (if g.transform = none then 1 else 2) := by
    rw [hrecv, htake, hdrop, jitBytes, List.append_nil, hp]
  obtain ⟨t, hsteps, hidle, -, h0, h1, hm, -, -⟩ := chRxRun s k b m g ch (.clean l.b0) (.clean l.b1) (.clean l.b2)
    (.clean l.b3) (payload.map .clean) [] hinv hb hstart hd hg hc hr hx ho hop ((List.length_map _).trans hlen)
    (hmoves.trans (List.append_nil _).symm)
  have hm : t.mem = decodedMem g b (min (assemble s.params.nativeOrder l).toNat m.toNat)
    (Memory.writeRange s.mem b.toNat (((payload.map RxEntry.clean).take
      (min (assemble s.params.nativeOrder l).toNat m.toNat)).map RxEntry.data)) := hm
  rw [hrecv, htake, map_data_clean] at hm
  refine ⟨t, (congrArg (fun ms => steps (List.length ms) s) hmoves).trans hsteps, hidle, h0, h1.trans ?_, hm⟩
  have hnone : summaryOf ((l.toList ++ payload).map RxEntry.clean) = 0#8 := mergeAll_clean 0#8 _
  rw [List.map_append] at hnone
  exact congrArg (BitVec.setWidth 32) hnone

/-- Settles O46: the wire gains the length and the encoded payload, whose receive stores the payload and undoes the
encode. -/
theorem framedRoundTrip : Obligations.FramedRoundTrip := by
  intro s r k j a n b m g g' ch ch' c c' first last hinv hb hstart hd hg hc hr hbuf hop hp hinv' hb' hstart' hd' hg' hc'
    hr' hx ho hop' hfits horder hundo
  obtain ⟨t, hsteps, -, -, -, hchan, -⟩ := chTxRun s k a n g ch [] hinv hb hstart hd hg hc hr hbuf hop
    (hp.trans (List.append_nil _).symm)
  let lenBytes := serialise s.params.nativeOrder n
  let payload := Memory.readRange (encodedMem g a n s.mem) a.toNat n.toNat
  have hlen : payload.length = n.toNat := Memory.readRange_length ..
  have hcount : s.pending.length = first + 3 * 4 + 4 * n.toNat := by
    simp only [hp, List.length_append, promptBytes_length, turns, List.length_replicate]
  refine ⟨t, _, (congrArg (steps · s) hcount).trans hsteps, hchan, ?_⟩
  intro sent
  have hsent : sent = (lenBytes.toList ++ payload).map RxEntry.clean :=
    congrArg (List.map RxEntry.clean) ((congrArg (List.drop _) (List.append_assoc ..)).trans List.drop_left)
  refine ⟨?length, fun hrp => ?received⟩
  case length =>
    rw [hsent, List.length_map, List.length_append, hlen]
    rfl
  case received =>
    have hpkt : assemble r.params.nativeOrder lenBytes = n := by rw [horder, assemble_serialise]
    have hrange : b.toNat + payload.length ≤ 4294967296 := by
      have := range_le_of_admitted (admitted_of_operand hop')
      omega
    obtain ⟨u, hsteps, hidle, h0, h1, hm⟩ := chRx_of_clean_packet (l := lenBytes) (payload := payload) hinv' hb'
      hstart' hd' hg' hc' hr' hx ho hop' (hlen.trans (congrArg BitVec.toNat hpkt).symm) (hlen.trans_le hfits)
      (hrp.trans (by rw [hsent]; rfl))
    have hback := readRange_decodedMem_encodedMem (mem_wf_of_inv hinv) (mem_wf_of_inv hinv')
      (range_le_of_admitted (admitted_of_operand hop)) hrange rfl hundo
    rw [← hm, hlen] at hback
    exact ⟨u, hsteps, hidle, h0.trans hpkt, h1, hback⟩

end Sys2Proof.Machine
end

section
/-! SUPPORT. Faults (R233 to R239): what ISSUE and taking a fault do, that step 1 of an operation
takes a fault or the operation goes on, that no later step takes one, and that only a reset leaves FAULTED. -/

namespace Sys2Proof.Machine

/-! ## ISSUE (R233) -/

theorem issue_of_idle {s : State} (h : s.bstat = .idle) (d : Descriptor) : issue d s = latch d s := by
  simp only [issue, h]

theorem issue_of_busy {s : State} (h : s.bstat = .busy) (d : Descriptor) :
    issue d s = raiseFault .issueBusy d.w0 s := by
  simp only [issue, h]

theorem issue_of_faulted {s : State} (h : s.bstat = .faulted) (d : Descriptor) : issue d s = s := by
  simp only [issue, h]

/-- Settles O7: a listed ISSUE is applied to the machine that has taken it off the schedule, whose block is in the same
state. -/
theorem issueProtocol : Obligations.IssueProtocol := by
  intro s w0 w1 w2 w3 rest hp
  have hstep : step s = .next (issue ⟨w0, w1, w2, w3⟩ { s with pending := rest }) := step_of_pending hp
  refine ⟨fun hb => hstep.trans (congrArg _ ?idle), fun hb => hstep.trans (congrArg _ ?busy),
    fun hb => hstep.trans (congrArg _ ?faulted), sequencerTurn_of_not_busy⟩
  case idle => exact issue_of_idle (s := { s with pending := rest }) hb _
  case busy => exact issue_of_busy (s := { s with pending := rest }) hb _
  case faulted => exact issue_of_faulted (s := { s with pending := rest }) hb _

/-! ## Taking a fault (R235, R236) -/

/-- Settles O8: the fields are written by definition, and the code that FCAUSE reads as is named by cases on the cause. -/
theorem faultEntry : Obligations.FaultEntry := by
  intro c info s
  refine ⟨rfl, rfl, rfl, ?code⟩
  case code =>
    cases c with
    | illegalOp | reservedField | badChannel | badConfig | notInit | baudZero | baudRange | nullPtr | memRange
    | issueBusy => rfl

/-! ## The steps that take no fault (R238) -/

/-- The block goes on with the operation or has completed it. -/
def GoesOn (s t : State) : Prop := t.bstat = s.bstat ∨ t.bstat = .idle

theorem GoesOn.not_faulted {s t : State} (h : GoesOn s t) (hb : s.bstat = .busy) : t.bstat ≠ .faulted := by
  obtain h | h := h <;> simp [h, hb]

@[simp] theorem mergeErrors_bstat (e : Byte) (s : State) : (mergeErrors e s).bstat = s.bstat := by
  unfold mergeErrors
  split <;> rfl

theorem portStep_goesOn {w1 w2 : Word} {s t : State} (h : portStep w1 w2 s = .ok t) : GoesOn s t := by
  have hinit {r : Reg} {v : Word} {next : PPhase} (h : initWrite r v next s = .ok t) : GoesOn s t := by
    obtain ⟨ch, -, rfl⟩ := initWrite_ok.mp h
    exact .inl rfl
  cases hp : s.pphase with
  | idle => simp [portStep_idle hp] at h
  | pi1 => exact hinit (portStep_pi1 hp ▸ h)
  | pi2 => exact hinit (portStep_pi2 hp ▸ h)
  | pi3 => exact hinit (portStep_pi3 hp ▸ h)
  | pi4 => exact hinit (portStep_pi4 hp ▸ h)
  | prClear => exact hinit (r := .status) (portStep_prClear hp ▸ h)
  | pi5 =>
    obtain ⟨ch, -, h⟩ := stepPi5_ok.mp (portStep_pi5 hp ▸ h)
    exact (finishTransfer_frame h).bstat
  | ptPoll =>
    obtain ⟨ch, -, ⟨-, rfl⟩ | ⟨-, ⟨b, -, rfl⟩ | ⟨-, rfl⟩⟩⟩ := stepPtPoll_ok (portStep_ptPoll hp ▸ h)
    all_goals exact .inl rfl
  | ptFetch =>
    obtain ⟨b, rfl⟩ := stepPtFetch_ok (portStep_ptFetch hp ▸ h)
    exact .inl rfl
  | ptWrite =>
    obtain ⟨ch, -, h⟩ := stepPtWrite_ok.mp (portStep_ptWrite hp ▸ h)
    exact (advance_frame h).bstat
  | prPoll =>
    obtain ⟨ch, -, ⟨x, xs, -, rfl⟩ | rfl | rfl⟩ := stepPrPoll_ok (portStep_prPoll hp ▸ h)
    · exact .inl (mergeErrors_bstat _ _)
    · exact .inl rfl
    · exact .inl rfl
  | prMrd =>
    obtain ⟨b, rfl⟩ := stepPrMrd_ok (portStep_prMrd hp ▸ h)
    exact .inl rfl
  | prMwr =>
    obtain ⟨e, -, -, rfl⟩ := stepPrMwr_ok (portStep_prMwr hp ▸ h)
    exact .inl rfl
  | prRead =>
    obtain ⟨ch, d, b, -, ⟨-, rfl⟩ | ⟨-, l, h⟩ | ⟨-, h⟩⟩ := stepPrRead_ok (portStep_prRead hp ▸ h)
    · exact .inl rfl
    · exact (advance_frame h).bstat
    · exact (advance_frame h).bstat
  | prStore =>
    obtain ⟨b, -, -, h⟩ := stepPrStore_ok (portStep_prStore hp ▸ h)
    exact (advance_frame h).bstat

theorem continueOp_goesOn {w1 w2 : Word} {s t : State} (h : continueOp w1 w2 s = .ok t) : GoesOn s t := by
  cases hf : s.fphase with
  | ctEncode =>
    obtain ⟨g, m, -, -, rfl⟩ := stepCtEncode_ok (continueOp_ctEncode hf ▸ h)
    exact .inl rfl
  | crDecode =>
    obtain ⟨m, -, rfl⟩ := stepCrDecode_ok (continueOp_crDecode hf ▸ h)
    exact .inl rfl
  | crResult =>
    obtain rfl := Except.ok.inj ((continueOp_crResult hf).symm.trans h)
    exact .inr rfl
  | none | ctLen | ctPayload | crLen | crPayload | crDrain =>
    have hport : s.portTurn := by simp [State.portTurn, hf]
    exact portStep_goesOn (continueOp_of_portTurn hport ▸ h)

/-! ## Step 1 takes a fault or goes on (R238) -/

/-- The step has done nothing but take a fault, or the operation goes on. -/
def FaultsOrGoesOn (s t : State) : Prop := (∃ c info, t = raiseFault c info s) ∨ GoesOn s t

theorem acceptInit_faultsOrGoesOn (c : Nat) (baud : Word) (s : State) : FaultsOrGoesOn s (acceptInit c baud s) := by
  unfold acceptInit
  split
  · exact .inl ⟨_, _, rfl⟩
  · exact .inr (.inl rfl)

theorem acceptOp_faultsOrGoesOn (i : Instr) (s : State) : FaultsOrGoesOn s (acceptOp i s) := by
  cases i with
  | portInit c baud => exact acceptInit_faultsOrGoesOn c baud s
  | portTx c a n =>
    simp only [acceptOp, acceptPortTx]
    split
    · exact .inl ⟨_, _, rfl⟩
    · split
      · exact .inr (.inr rfl)
      · exact .inr (.inl rfl)
  | portRx c b n e =>
    simp only [acceptOp, acceptPortRx]
    split
    · exact .inl ⟨_, _, rfl⟩
    · split
      · exact .inr (.inr rfl)
      · exact .inr (.inl rfl)
  | chInit k baud =>
    simp only [acceptOp, acceptChInit]
    split
    · exact .inl ⟨_, _, rfl⟩
    · exact acceptInit_faultsOrGoesOn _ baud s
  | chTx k a n =>
    simp only [acceptOp, acceptChTx]
    split
    · exact .inl ⟨_, _, rfl⟩
    · split
      · exact .inl ⟨_, _, rfl⟩
      · split <;> exact .inr (.inl rfl)
  | chRx k b m =>
    simp only [acceptOp, acceptChRx]
    split
    · exact .inl ⟨_, _, rfl⟩
    · split
      · exact .inl ⟨_, _, rfl⟩
      · exact .inr (.inl rfl)

/-- Where the sequencer's turn starts an operation and leaves the block FAULTED, it has done nothing but take a fault. -/
theorem sequencerTurn_fault_of_atStart {s t : State} (hb : s.bstat = .busy) (hstart : s.atStart = true)
    (h : sequencerTurn s = .next t) (hf : t.bstat = .faulted) : ∃ c info, t = raiseFault c info s := by
  obtain ⟨hne, -⟩ | ⟨-, hfault⟩ | ⟨-, i, -, hi⟩ := sequencerTurn_next h
  · exact absurd hb hne
  · exact hfault
  · obtain rfl := Except.ok.inj ((stepOp_of_atStart hstart).symm.trans hi)
    exact (acceptOp_faultsOrGoesOn i s).resolve_right fun hon => hon.not_faulted hb hf

/-- Past step 1 of an operation D0 to D3 still encode it (R44). -/
theorem decode_of_phaseOk {s : State} (h : phaseOk s = true) (hstart : s.atStart = false) :
    ∃ i, decode s.descriptor = .ok i := by
  cases hd : decode s.descriptor with
  | ok i => exact ⟨i, rfl⟩
  | error e => simp [phaseOk, hstart, hd] at h

/-- Past step 1 of an operation the sequencer's turn takes no fault. -/
theorem sequencerTurn_goesOn {s t : State} (hphase : phaseOk s = true) (hb : s.bstat = .busy)
    (hstart : s.atStart = false) (h : sequencerTurn s = .next t) : GoesOn s t := by
  obtain ⟨i, hd⟩ := decode_of_phaseOk hphase hstart
  rw [sequencerTurn_of_decode_ok hb hd, exec_next, stepOp_of_not_atStart hstart] at h
  exact continueOp_goesOn h

/-- Settles O10: a fault of step 1 is taken with the phases still at their start, so that they too stay as they were. -/
theorem faultsArePrecise : Obligations.FaultsArePrecise := by
  refine ⟨fun s t hb hstart h hf => ?first, fun s t hinv hb hstart h => ?later, fun s d hb => issue_of_busy hb d⟩
  case first =>
    obtain ⟨c, info, rfl⟩ := sequencerTurn_fault_of_atStart hb hstart h hf
    exact ⟨c, info, raiseFault_of_atStart hstart c info⟩
  case later =>
    obtain ⟨-, -, -, hphase⟩ := hinv
    exact (sequencerTurn_goesOn hphase hb hstart h).not_faulted hb

/-! ## FAULTED (R237, R239) -/

/-- What a machine in FAULTED can still change, but for a reset: the schedule runs on, the host reads registers and accesses
caller memory, and the line agents work on the channels. -/
def OnlyAgents (s t : State) : Prop :=
  ∃ q n w m l, q ⊆ s.pending ∧ t = { s with pending := q, turn := n, hostData := w, mem := m, chans := l }

theorem OnlyAgents.refl (s : State) : OnlyAgents s s := ⟨_, _, _, _, _, List.Subset.refl _, rfl⟩

theorem OnlyAgents.trans {s t u : State} (h : OnlyAgents s t) (h' : OnlyAgents t u) : OnlyAgents s u := by
  obtain ⟨q, n, w, m, l, hq, rfl⟩ := h
  obtain ⟨q', n', w', m', l', hq', rfl⟩ := h'
  exact ⟨q', n', w', m', l', List.Subset.trans hq' hq, rfl⟩

theorem OnlyAgents.bstat {s t : State} (h : OnlyAgents s t) : t.bstat = s.bstat := by
  obtain ⟨q, n, w, m, l, -, rfl⟩ := h
  rfl

theorem OnlyAgents.pending {s t : State} (h : OnlyAgents s t) : t.pending ⊆ s.pending := by
  obtain ⟨q, n, w, m, l, hq, rfl⟩ := h
  exact hq

/-- In FAULTED neither the sequencer's turn nor ISSUE does anything. -/
theorem applyMove_of_faulted {m : Move} {s t : State} (hb : s.bstat = .faulted) (hreset : ∀ draws, m ≠ .reset draws)
    (h : applyMove m s = .next t) : OnlyAgents s t := by
  cases m with
  | sequencer =>
    obtain rfl := Host.Outcome.next.inj ((sequencerTurn_of_not_busy (by simp [hb])).symm.trans h)
    exact .refl s
  | issue w0 w1 w2 w3 =>
    obtain rfl := Host.Outcome.next.inj h
    rw [issue_of_faulted hb]
    exact .refl s
  | reset draws => exact absurd rfl (hreset draws)
  | hostRead r =>
    obtain rfl := Host.Outcome.next.inj h
    exact ⟨_, _, _, _, _, List.Subset.refl _, rfl⟩
  | hostLoad a =>
    obtain rfl := hostLoad_next h
    exact ⟨_, _, _, _, _, List.Subset.refl _, rfl⟩
  | hostStore a v =>
    obtain rfl := hostStore_next h
    exact ⟨_, _, _, _, _, List.Subset.refl _, rfl⟩
  | lineTx c =>
    obtain ⟨ch, -, rfl⟩ := lineTx_next h
    exact ⟨_, _, _, _, _, List.Subset.refl _, rfl⟩
  | lineRx c b pe fe =>
    obtain ⟨ch, -, rfl⟩ := lineRx_next h
    exact ⟨_, _, _, _, _, List.Subset.refl _, rfl⟩

/-- The move that comes up by itself is no reset. -/
theorem turnMove_ne_reset (turn : Nat) (draws : List Draw) : turnMove turn ≠ .reset draws := by
  cases turn <;> simp [turnMove]

theorem step_of_faulted {s t : State} (hb : s.bstat = .faulted) (hreset : ∀ m ∈ s.pending, ∀ draws, m ≠ .reset draws)
    (h : step s = .next t) : OnlyAgents s t := by
  cases hp : s.pending with
  | nil =>
    have hturn : OnlyAgents s { s with turn := nextTurn s.params.nChannels s.turn } :=
      ⟨_, _, _, _, _, List.Subset.refl _, rfl⟩
    exact hturn.trans (applyMove_of_faulted hb (turnMove_ne_reset _) ((step_of_no_pending hp).symm.trans h))
  | cons m rest =>
    have htaken : OnlyAgents s { s with pending := rest } := ⟨_, _, _, _, _, by simp [hp], rfl⟩
    exact htaken.trans (applyMove_of_faulted hb (hreset m (by simp [hp])) ((step_of_pending hp).symm.trans h))

theorem steps_of_faulted (k : Nat) {s t : State} (hb : s.bstat = .faulted)
    (hreset : ∀ m ∈ s.pending, ∀ draws, m ≠ .reset draws) (h : steps k s = .next t) : OnlyAgents s t := by
  induction k generalizing s with
  | zero =>
    obtain rfl := Host.Outcome.next.inj h
    exact .refl s
  | succ k ih =>
    cases hs : step s with
    | next u =>
      have hu := step_of_faulted hb hreset hs
      exact hu.trans (ih (hu.bstat.trans hb) (fun m hm => hreset m (hu.pending hm)) (steps_succ_of_step hs k ▸ h))
    | fault | refused => simp [steps, hs] at h

/-- Settles O9: no field of the block or of the descriptor is among those that the agents change in FAULTED. -/
theorem faultedUntilReset : Obligations.FaultedUntilReset := by
  intro k s t hb hreset h
  obtain ⟨q, n, w, m, l, -, rfl⟩ := steps_of_faulted k hb hreset h
  exact ⟨hb, rfl, rfl, rfl, rfl, rfl⟩

end Sys2Proof.Machine
end

section
/-! SUPPORT. The turns of the line agents between two of the sequencer's, as one change of the machine (R96). -/

namespace Sys2Proof.Machine

/-! ## Reaching a state -/

theorem Reaches.refl (s : State) : Reaches s s := ⟨0, rfl⟩

theorem Reaches.trans {s t u : State} (h : Reaches s t) (h' : Reaches t u) : Reaches s u := by
  obtain ⟨j, hj⟩ := h
  obtain ⟨k, hk⟩ := h'
  exact ⟨j + k, (steps_add_of_steps hj k).trans hk⟩

theorem reaches_of_step {s t : State} (h : step s = .next t) : Reaches s t := ⟨1, steps_succ_of_step h 0⟩

/-! ## The machine whose agents take their turns -/

/-- Operation i is in progress, and with no move listed the agents of a legal machine take their turns. -/
structure TakesTurns (i : Instr) (s : State) : Prop where
  busy : s.bstat = .busy
  decodes : decode s.descriptor = .ok i
  pending : s.pending = []
  legal : s.params.legal
  chans : s.chans.length = s.params.nChannels

theorem takesTurns_of_inv {s : State} {i : Instr} (hinv : Inv s) (hb : s.bstat = .busy) (hd : decode s.descriptor = .ok i)
    (hq : s.pending = []) : TakesTurns i s := by
  obtain ⟨⟨hlegal, hlen, -⟩, -⟩ := hinv
  exact ⟨hb, hd, hq, hlegal, hlen⟩

/-- The machine after the turns of the line agents from the one whose turn it is up to the sequencer's. -/
def State.lineRound (s : State) : State :=
  { s with turn := 0, chans := s.chans.mapIdx fun k ch => if s.turn ≤ k + 1 then ch.lineTx else ch }

theorem lineRound_chan? (s : State) (c : Nat) :
    s.lineRound.chan? c = (s.chan? c).map fun ch => if s.turn ≤ c then ch.lineTx else ch := by
  cases c with
  | zero => rfl
  | succ k => exact List.getElem?_mapIdx

/-- The first turn of a round, and then the others. -/
theorem lineRound_of_lineTurn {s : State} {ch : Channel} (h : s.chan? s.turn = some ch) :
    { s with turn := s.turn + 1, chans := (s.setChan s.turn ch.lineTx).chans }.lineRound = s.lineRound := by
  obtain ⟨k, hk⟩ : ∃ k, s.turn = k + 1 := ⟨s.turn - 1, by have := chan?_pos h; omega⟩
  obtain ⟨hlt, rfl⟩ := List.getElem?_eq_some_iff.mp (show s.chans[k]? = some ch by simpa only [hk, State.chan?] using h)
  simp only [State.lineRound, State.mk.injEq, true_and, and_true, hk, State.setChan]
  refine List.ext_getElem? fun j => ?_
  simp only [List.getElem?_mapIdx, List.getElem?_set]
  by_cases hj : k = j
  · subst hj
    simp [hlt]
  · simp only [if_neg hj]
    congr 1
    funext x
    exact if_congr (by omega) rfl rfl

/-- A round that no line agent has a turn in. -/
theorem lineRound_of_past {s : State} (h : s.chans.length < s.turn) : s.lineRound = { s with turn := 0 } := by
  simp only [State.lineRound, State.mk.injEq, true_and, and_true]
  refine List.ext_getElem? fun j => ?_
  by_cases hj : j < s.chans.length
  · simp [List.getElem?_eq_getElem hj, show ¬s.turn ≤ j + 1 by omega]
  · simp [List.getElem?_eq_none (Nat.le_of_not_lt hj)]

section
variable {i : Instr} {s : State} (h : TakesTurns i s)
include h

theorem TakesTurns.lineRound : TakesTurns i s.lineRound :=
  ⟨h.busy, h.decodes, h.pending, h.legal, List.length_mapIdx.trans h.chans⟩

/-- The turn of a line agent. -/
theorem TakesTurns.step_of_lineTurn (h1 : 1 ≤ s.turn) (h2 : s.turn ≤ s.params.nChannels) :
    ∃ ch, s.chan? s.turn = some ch ∧ step s = .next { s with
      turn := nextTurn s.params.nChannels s.turn, chans := (s.setChan s.turn ch.lineTx).chans } := by
  obtain ⟨ch, hc⟩ := chan?_exists h1 (h.chans ▸ h2)
  obtain ⟨k, hk⟩ : ∃ k, s.turn = k + 1 := ⟨s.turn - 1, by omega⟩
  refine ⟨ch, hc, ?_⟩
  rw [step_of_no_pending h.pending, hk, turnMove, ← hk, applyMove_lineTx]
  exact (lineTx_of_chan (s := { s with turn := nextTurn s.params.nChannels s.turn }) ((chan?_congr rfl _).trans hc)).trans
    (congrArg _ (setChan_eq_of_chans rfl))

/-- The turns of the line agents up to the sequencer's. -/
theorem TakesTurns.reaches_lineRound {m : Nat} (hturn : 1 ≤ s.turn) (hm : s.turn + m = s.params.nChannels) :
    Reaches s s.lineRound := by
  induction m generalizing s with
  | zero =>
    obtain ⟨ch, hc, hstep⟩ := h.step_of_lineTurn hturn (by omega)
    have hpast : s.params.nChannels < s.turn + 1 := by omega
    rw [nextTurn, if_neg (by omega)] at hstep
    rw [← lineRound_of_lineTurn hc, lineRound_of_past (by simpa [h.chans] using hpast)]
    exact reaches_of_step hstep
  | succ m ih =>
    obtain ⟨ch, hc, hstep⟩ := h.step_of_lineTurn hturn (by omega)
    rw [nextTurn, if_pos (by omega)] at hstep
    have hnext : TakesTurns i { s with turn := s.turn + 1, chans := (s.setChan s.turn ch.lineTx).chans } :=
      ⟨h.busy, h.decodes, h.pending, h.legal, (setChan_chans_length ..).trans h.chans⟩
    rw [← lineRound_of_lineTurn hc]
    exact (reaches_of_step hstep).trans (ih hnext (Nat.le_add_left ..) ((Nat.add_right_comm ..).trans hm))

/-- Whoever's turn it is, the sequencer's comes, at once or after the round. -/
theorem TakesTurns.reaches_sequencer (hturn : s.turn ≤ s.params.nChannels) :
    ∃ t, Reaches s t ∧ t.turn = 0 ∧ (t = s ∨ t = s.lineRound) := by
  by_cases hzero : s.turn = 0
  · exact ⟨s, .refl s, hzero, .inl rfl⟩
  · exact ⟨s.lineRound, h.reaches_lineRound (m := s.params.nChannels - s.turn) (by omega) (by omega), rfl, .inr rfl⟩

/-- The sequencer's turn is a step of the operation, and the first line agent's comes next. -/
theorem TakesTurns.step_of_sequencer (hturn : s.turn = 0) {t : State} (ht : stepOp i { s with turn := 1 } = .ok t) :
    step s = .next t ∧ t.turn = 1 ∧ (t.bstat = .busy → TakesTurns i t) := by
  obtain ⟨hp, hd, hq, hk, hc⟩ := stepOp_opFrame ht
  have hnext : nextTurn s.params.nChannels 0 = 1 := if_pos h.legal.1
  have hlen : t.chans.length = s.chans.length := by
    generalize t.chans = l at hc
    cases hc with
    | same => rfl
    | own => exact setChan_chans_length ..
  refine ⟨?_, hk, fun hb => ⟨hb, hd ▸ h.decodes, hq.trans h.pending, hp ▸ h.legal, ?_⟩⟩
  · rw [step_of_no_pending h.pending, hturn, hnext, turnMove_zero, applyMove_sequencer]
    exact (sequencerTurn_of_decode_ok (s := { s with turn := 1 }) h.busy h.decodes).trans (exec_next.mpr ht)
  · rw [hlen, h.chans, hp]

end

end Sys2Proof.Machine
end

section
/-! SUPPORT. How near its end an init or a transmit is, and that each of its steps past step 1 brings it nearer or is a poll
of a full buffer (R155, R159, R162, R200). The invariant of the machine does not do for this, since a step may leave it
(`not_stepKeepsInv`): what is kept here lets PT_WRITE find its buffer full and lose its byte, and the transmit goes on. -/

namespace Sys2Proof.Machine

/-! ## What an operation in progress needs -/

/-- Channel c sends what its transmit buffer holds, which is no more than its depth (R96). -/
def Transmits (s : State) (c : Nat) : Prop :=
  ∃ ch, s.chan? c = some ch ∧ ch.on = true ∧ ch.txen = true ∧ ch.txbuf.length ≤ s.params.txDepth

theorem Transmits.congr {s t : State} {c : Nat} (h : Transmits s c) (hc : t.chans = s.chans) (hp : t.params = s.params) :
    Transmits t c := by
  obtain ⟨ch, hch, htx⟩ := h
  exact ⟨ch, (chan?_congr hc c).trans hch, hp ▸ htx⟩

theorem Transmits.lineRound {s : State} {c : Nat} (h : Transmits s c) : Transmits s.lineRound c := by
  obtain ⟨ch, hc, hon, htx, hfits⟩ := h
  have hchan := lineRound_chan? s c
  rw [hc, Option.map_some] at hchan
  refine ⟨_, hchan, ?_⟩
  split
  · exact ⟨(lineTx_on ch).trans hon, (lineTx_txen ch).trans htx, by
      rw [lineTx_txbuf hon htx, List.length_tail]
      exact (Nat.sub_le ..).trans hfits⟩
  · exact ⟨hon, htx, hfits⟩

/-- A transmit in progress (R159): its source holds its bytes, of which one is next, and its channel transmits. -/
structure Sending (s : State) : Prop where
  phase : s.pphase.isTx = true
  fetches : s.pphase = .ptFetch → s.pSrc ≠ .len
  source : sourceOk false s.pSrc s.pLen = true
  next : s.pIdx < s.pLen
  transmits : Transmits s s.pCh.toNat

/-- A transmit at its start. -/
theorem sending_startTx {s : State} {c : Byte} {src : Source} {n : Word} (hsrc : sourceOk false src n = true)
    (hn : 0#32 < n) (htx : Transmits s c.toNat) : Sending (startTx c src n s) :=
  ⟨rfl, nofun, hsrc, hn, htx.congr rfl rfl⟩

/-- The n bytes at a are none, or a source that a transmit can use. -/
def PayloadOk (a n : Word) : Prop := n = 0#32 ∨ sourceOk false (.mem a) n = true

theorem payloadOk_of_admitted {p : Params} {a n : Word} (h : n = 0#32 ∨ a ≠ 0#32)
    (hadm : admitted p a.toNat n.toNat = true) : PayloadOk a n :=
  h.imp_right fun ha => decide_eq_true ⟨ha, range_le_of_admitted hadm⟩

theorem PayloadOk.le {a n : Word} (h : PayloadOk a n) : a.toNat + n.toNat ≤ 4294967296 := by
  obtain rfl | h := h
  · simpa using Nat.le_of_lt a.isLt
  · exact (of_decide_eq_true h).2

/-- The framing phases of a transmit's bytes: none in a PORT_TX, and in a CH_TX that of LENBUF's bytes, before a payload on
the words a and n, and that of the payload's. -/
def SendPhase (a n : Word) (f : FPhase) : Prop := f = .none ∨ f = .ctPayload ∨ f = .ctLen ∧ PayloadOk a n

/-- An init or a transmit on the words a and n is past its step 1: in its init sequence, in the bytes of a transmit, or in
the encode before them. -/
inductive Working (a n : Word) (s : State) : Prop
  | init {ch : Channel} (hf : s.fphase = .none) (hp : s.pphase.isInit = true) (hc : s.chan? s.pCh.toNat = some ch)
  | encode {g : ChannelConfig} {x : Transform} (hf : s.fphase = .ctEncode)
      (hg : s.params.configs[s.curCfg.toNat]? = some g) (hx : g.transform = some x) (htx : Transmits s g.channel.toNat)
      (hpay : PayloadOk a n)
  | send (hf : SendPhase a n s.fphase) (h : Sending s)

/-- What an operation in progress needs is there still when agents have changed the channels but left them transmitting. -/
theorem Working.of_chans {a n : Word} {s : State} (h : Working a n s) {k : Nat} {l : List Channel}
    (hl : ∀ c ch, s.chan? c = some ch → ∃ ch', State.chan? { s with turn := k, chans := l } c = some ch')
    (htx : ∀ c, Transmits s c → Transmits { s with turn := k, chans := l } c) :
    Working a n { s with turn := k, chans := l } := by
  cases h with
  | init hf hp hc =>
    obtain ⟨ch', hc'⟩ := hl _ _ hc
    exact .init hf hp hc'
  | encode hf hg hx hch hpay => exact .encode hf hg hx (htx _ hch) hpay
  | send hf h => exact .send hf ⟨h.phase, h.fetches, h.source, h.next, htx _ h.transmits⟩

theorem Working.withTurn {a n : Word} {s : State} (h : Working a n s) (k : Nat) : Working a n { s with turn := k } :=
  h.of_chans (fun c ch hc => ⟨ch, (chan?_congr rfl c).trans hc⟩) fun _ htx => htx.congr rfl rfl

theorem Working.lineRound {a n : Word} {s : State} (h : Working a n s) : Working a n s.lineRound :=
  h.of_chans (fun c _ hc => ⟨_, (lineRound_chan? s c).trans (congrArg _ hc)⟩) fun _ htx => htx.lineRound

/-! ## The turns that are left -/

/-- The turns left in the init sequence, or in the transmission of a byte, after the next. -/
def PPhase.ticks : PPhase → Nat
  | .pi1 => 4
  | .pi2 => 3
  | .pi3 => 2
  | .pi4 => 1
  | .ptPoll => 2
  | .ptFetch => 1
  | _ => 0

/-- A bound of the turns that a CH_TX of n bytes takes after the framing phase it is in. -/
def FPhase.ticks (n : Nat) : FPhase → Nat
  | .ctEncode => 3 * n + 18
  | .ctLen => 3 * n + 3
  | _ => 0

/-- A bound of the sequencer's turns that an operation has left, but for polls of a full buffer: three a byte. -/
def ticks (n : Word) (s : State) : Nat :=
  s.fphase.ticks n.toNat + 3 * (s.pLen.toNat - s.pIdx.toNat) + s.pphase.ticks

/-- The channel of the operation transmits, and its buffer is full, so that a poll of it waits (R162). -/
def FullBuffer (s : State) : Prop :=
  ∃ ch, s.chan? s.pCh.toNat = some ch ∧ ch.on = true ∧ ch.txen = true ∧ ch.txbuf.length = s.params.txDepth

/-- A step to state t completes the operation, or leaves it fewer turns. -/
def Nearer (a n : Word) (s t : State) : Prop := t.bstat = .idle ∨ Working a n t ∧ ticks n t < ticks n s

/-! ## The init sequence -/

section
variable {a n : Word} {s : State}

theorem initWrite_nearer {ch : Channel} {r : Reg} {v : Word} {next : PPhase} (hf : s.fphase = .none)
    (hc : s.chan? s.pCh.toNat = some ch) (hnext : next.isInit = true) (hlt : next.ticks < s.pphase.ticks) :
    ∃ t, initWrite r v next s = .ok t ∧ Nearer a n s t :=
  ⟨_, initWrite_ok.mpr ⟨ch, hc, rfl⟩, .inr
    ⟨.init hf hnext ((chan?_congr rfl _).trans (chan?_setChan_same (ch.writeReg s.params r v) hc)),
      Nat.add_lt_add_left hlt _⟩⟩

theorem portStep_nearer_of_init {ch : Channel} (hf : s.fphase = .none) (hp : s.pphase.isInit = true)
    (hc : s.chan? s.pCh.toNat = some ch) : ∃ t, portStep a n s = .ok t ∧ Nearer a n s t := by
  cases hpp : s.pphase with
  | pi1 => exact portStep_pi1 hpp ▸ initWrite_nearer hf hc rfl (by simp [hpp, PPhase.ticks])
  | pi2 => exact portStep_pi2 hpp ▸ initWrite_nearer hf hc rfl (by simp [hpp, PPhase.ticks])
  | pi3 => exact portStep_pi3 hpp ▸ initWrite_nearer hf hc rfl (by simp [hpp, PPhase.ticks])
  | pi4 => exact portStep_pi4 hpp ▸ initWrite_nearer hf hc rfl (by simp [hpp, PPhase.ticks])
  | pi5 => exact ⟨_, (portStep_pi5 hpp).trans (stepPi5_of_chan hc hf), .inl (setChan_bstat ..)⟩
  | idle | ptPoll | ptFetch | ptWrite | prPoll | prClear | prMrd | prMwr | prRead | prStore =>
    simp [hpp, PPhase.isInit] at hp

/-! ## The bytes of a transmit -/

/-- The next phase of the same byte. -/
theorem nearer_of_phase (hf : SendPhase a n s.fphase) (h : Sending s) {next : PPhase} (hnext : next.isTx = true)
    (hfetch : next = .ptFetch → s.pSrc ≠ .len) (hlt : next.ticks < s.pphase.ticks) (d : Byte) :
    Nearer a n s { s with pD := d, pphase := next } :=
  .inr ⟨.send hf ⟨hnext, hfetch, h.source, h.next, h.transmits⟩, Nat.add_lt_add_left hlt _⟩

theorem stepPtPoll_nearer (hf : SendPhase a n s.fphase) (h : Sending s) (hp : s.pphase = .ptPoll) :
    ∃ t, stepPtPoll s = .ok t ∧ (Nearer a n s t ∨ t = s ∧ FullBuffer s) := by
  obtain ⟨ch, hc, hon, htx, -⟩ := h.transmits
  obtain ⟨t, ht⟩ := stepPtPoll_answers hc fun hs => lenIdx_lt (hs ▸ h.source) h.next
  refine ⟨t, ht, ?_⟩
  obtain ⟨x, hx, ⟨hfull, rfl⟩ | ⟨-, ⟨b, -, rfl⟩ | ⟨hs, rfl⟩⟩⟩ := stepPtPoll_ok ht
  · obtain rfl : ch = x := Option.some.inj (hc.symm.trans hx)
    exact .inr ⟨rfl, ch, hc, hon, htx, txbf_iff.mp hfull⟩
  · exact .inl (nearer_of_phase hf h (next := .ptWrite) rfl nofun (by simp [hp, PPhase.ticks]) b)
  · exact .inl (nearer_of_phase hf h rfl (fun _ => hs) (by simp [hp, PPhase.ticks]) s.pD)

theorem stepPtFetch_nearer (hf : SendPhase a n s.fphase) (h : Sending s) (hp : s.pphase = .ptFetch) :
    ∃ t, stepPtFetch s = .ok t ∧ Nearer a n s t := by
  have hsource := h.source
  cases hs : s.pSrc with
  | len => exact absurd hs (h.fetches hp)
  | null => simp [hs, sourceOk] at hsource
  | mem b =>
    obtain ⟨-, hle⟩ : b ≠ 0#32 ∧ b.toNat + s.pLen.toNat ≤ 4294967296 := by simpa [hs, sourceOk] using hsource
    have hlt : byteAddr b s.pIdx < 4294967296 := by
      have := BitVec.lt_def.mp h.next
      unfold byteAddr
      omega
    refine ⟨_, ?_, nearer_of_phase hf h (next := .ptWrite) rfl nofun (by simp [hp, PPhase.ticks])
      (Memory.read s.mem (byteAddr b s.pIdx))⟩
    simp only [stepPtFetch, hs, exceptBind_of_ok (memRead_of_lt hlt)]

/-- What follows the last byte: the payload after LENBUF's bytes, or the end of the operation (R154, R197). -/
theorem finishTransfer_nearer (hf : SendPhase a n s.fphase) (htx : Transmits s s.pCh.toNat) :
    ∃ t, finishTransfer a n s = .ok t ∧
      (t.bstat = .idle ∨ Working a n t ∧ ticks n t < s.fphase.ticks n.toNat) := by
  obtain hf | hf | ⟨hf, hpay⟩ := hf
  · exact ⟨_, finishTransfer_of_none hf, .inl rfl⟩
  · exact ⟨_, finishTransfer_of_ctPayload hf, .inl rfl⟩
  · rw [finishTransfer_of_ctLen hf]
    by_cases hn : n = 0#32
    case pos => exact ⟨complete s, if_pos hn, .inl rfl⟩
    case neg =>
      refine ⟨_, afterLength_of_ne_zero hn .., .inr ⟨.send (.inr (.inl rfl))
        (sending_startTx (hpay.resolve_left hn) (word_pos.mpr hn) (htx.congr rfl rfl)), ?_⟩⟩
      simp [ticks, hf, FPhase.ticks, PPhase.ticks]

/-- What follows a byte: the next one, or what follows the last (R159). -/
theorem advance_nearer (hf : SendPhase a n s.fphase) (h : Sending s) :
    ∃ t, advance .ptPoll a n s = .ok t ∧ Nearer a n s t := by
  have hidx := BitVec.lt_def.mp h.next
  by_cases hlast : s.pIdx + 1#32 = s.pLen
  case neg =>
    have hsucc : (s.pIdx + 1#32).toNat = s.pIdx.toNat + 1 := by bv_omega
    have hnext : s.pIdx + 1#32 < s.pLen := by bv_omega
    refine ⟨_, advance_of_more hlast, .inr ⟨.send hf ⟨rfl, nofun, h.source, hnext, h.transmits⟩, ?_⟩⟩
    simp only [ticks, hsucc, PPhase.ticks]
    omega
  case pos =>
    obtain ⟨t, ht, hend | ⟨hwork, hlt⟩⟩ := finishTransfer_nearer
      (s := { s with pIdx := s.pIdx + 1#32, pphase := .idle }) hf (h.transmits.congr rfl rfl)
    · exact ⟨t, (advance_of_last hlast).trans ht, .inl hend⟩
    · exact ⟨t, (advance_of_last hlast).trans ht, .inr ⟨hwork, Nat.lt_add_right _ (Nat.lt_add_right _ hlt)⟩⟩

/-- A write of TXREG leaves the channel transmitting, whether the byte has room or is lost (R91). -/
theorem transmits_writeTxreg {c : Nat} {ch : Channel} (h : Transmits s c) (hc : s.chan? c = some ch) (v : Word) :
    Transmits (s.setChan c (ch.writeReg s.params .txreg v)) c := by
  obtain ⟨x, hx, hon, htx, hfits⟩ := h
  obtain rfl : ch = x := Option.some.inj (hc.symm.trans hx)
  refine ⟨_, chan?_setChan_same _ hc, ?_⟩
  rw [setChan_params, Channel.writeReg]
  by_cases hroom : ch.txbuf.length < s.params.txDepth
  · rw [writeTxreg_of_room v hon hroom]
    exact ⟨hon, htx, by simpa using hroom⟩
  · rw [writeTxreg_of_no_room v (by simp [hroom])]
    exact ⟨hon, htx, hfits⟩

theorem stepPtWrite_nearer (hf : SendPhase a n s.fphase) (h : Sending s) :
    ∃ t, stepPtWrite a n s = .ok t ∧ Nearer a n s t := by
  obtain ⟨ch, hc, -⟩ := h.transmits
  have hsent : Sending { s with
      chans := (s.setChan s.pCh.toNat (ch.writeReg s.params .txreg (s.pD.setWidth 32))).chans } :=
    ⟨h.phase, h.fetches, h.source, h.next, (transmits_writeTxreg h.transmits hc _).congr rfl (setChan_params s ..).symm⟩
  obtain ⟨t, ht, hnear⟩ := advance_nearer (s := { s with
    chans := (s.setChan s.pCh.toNat (ch.writeReg s.params .txreg (s.pD.setWidth 32))).chans }) hf hsent
  exact ⟨t, stepPtWrite_ok.mpr ⟨ch, hc, ht⟩, hnear⟩

theorem portStep_nearer_of_send (hf : SendPhase a n s.fphase) (h : Sending s) :
    ∃ t, portStep a n s = .ok t ∧ (Nearer a n s t ∨ t = s ∧ FullBuffer s) := by
  have hphase := h.phase
  cases hp : s.pphase with
  | ptPoll => exact portStep_ptPoll hp ▸ stepPtPoll_nearer hf h hp
  | ptFetch => exact portStep_ptFetch hp ▸ (stepPtFetch_nearer hf h hp).imp fun _ => .imp_right .inl
  | ptWrite => exact portStep_ptWrite hp ▸ (stepPtWrite_nearer hf h).imp fun _ => .imp_right .inl
  | idle | pi1 | pi2 | pi3 | pi4 | pi5 | prPoll | prClear | prMrd | prMwr | prRead | prStore =>
    simp [hp, PPhase.isTx] at hphase

/-! ## Any step past step 1 -/

theorem stepCtEncode_nearer {g : ChannelConfig} {x : Transform} (hf : s.fphase = .ctEncode)
    (hg : s.params.configs[s.curCfg.toNat]? = some g) (hx : g.transform = some x) (htx : Transmits s g.channel.toNat)
    (hpay : PayloadOk a n) : ∃ t, stepCtEncode a n s = .ok t ∧ Nearer a n s t := by
  refine ⟨_, stepCtEncode_of_transform hg hx hpay.le, .inr ⟨.send (.inr (.inr ⟨rfl, hpay⟩))
    (sending_startTx rfl (by decide) (htx.congr rfl rfl)), ?_⟩⟩
  have hlen : (4#32).toNat = 4 := rfl
  simp only [ticks, hf, FPhase.ticks, PPhase.ticks, startTx_fphase, startTx_pLen, startTx_pIdx, startTx_pphase, hlen]
  omega

theorem SendPhase.portTurn (hf : SendPhase a n s.fphase) : s.portTurn := by
  obtain hf | hf | ⟨hf, -⟩ := hf
  · exact portTurn_of_none hf
  · exact portTurn_of_ct (.inr hf)
  · exact portTurn_of_ct (.inl hf)

theorem Working.continueOp_nearer (h : Working a n s) :
    ∃ t, continueOp a n s = .ok t ∧ (Nearer a n s t ∨ t = s ∧ FullBuffer s) := by
  cases h with
  | init hf hp hc =>
    exact continueOp_of_portTurn (portTurn_of_none hf) ▸ (portStep_nearer_of_init hf hp hc).imp fun _ => .imp_right .inl
  | encode hf hg hx htx hpay =>
    exact continueOp_ctEncode hf ▸ (stepCtEncode_nearer hf hg hx htx hpay).imp fun _ => .imp_right .inl
  | send hf h => exact continueOp_of_portTurn hf.portTurn ▸ portStep_nearer_of_send hf h

/-- Past step 1 the phases are not those of the start. -/
theorem Working.not_atStart (h : Working a n s) : s.atStart = false := by
  cases h with
  | init _ hp =>
    have : s.pphase ≠ .idle := fun h => by simp [h, PPhase.isInit] at hp
    simp [State.atStart, this]
  | encode hf => simp [State.atStart, hf]
  | send _ h =>
    have : s.pphase ≠ .idle := fun hp => by simpa [hp, PPhase.isTx] using h.phase
    simp [State.atStart, this]

end

end Sys2Proof.Machine
end

section
/-! SUPPORT. The start of an init or a transmit, where the invariant has one in progress, and its end (R155, R159, R197,
R274). -/

namespace Sys2Proof.Machine

/-! ## READY channels transmit -/

/-- Every READY channel transmits (R162). -/
def ReadyTransmits (s : State) : Prop := ∀ c, s.isReady c = true → Transmits s c

theorem readyTransmits_of_inv {s : State} (hinv : Inv s) (hb : s.bstat = .busy) (hp : s.pphase.isInit = false) :
    ReadyTransmits s := by
  intro c hr
  obtain ⟨ch, hc, hready⟩ := isReady_iff.mp hr
  obtain ⟨hon, htx, -⟩ := enabled_of_ready hinv hb hp hc hready
  obtain ⟨⟨-, -, hfits, -⟩, -⟩ := hinv
  exact ⟨ch, hc, hon, htx, (hfits ch (mem_of_chan? hc)).2⟩

theorem ReadyTransmits.lineRound {s : State} (h : ReadyTransmits s) : ReadyTransmits s.lineRound := by
  intro c hr
  refine (h c ?_).lineRound
  obtain ⟨ch', hc', hready⟩ := isReady_iff.mp hr
  rw [lineRound_chan?] at hc'
  obtain ⟨ch, hc, rfl⟩ := Option.map_eq_some_iff.mp hc'
  refine isReady_iff.mpr ⟨ch, hc, ?_⟩
  split at hready
  · exact (lineTx_chst ch).symm.trans hready
  · exact hready

/-! ## The operations in progress that the invariant has -/

theorem sending_of_txOk {s : State} {c : Nat} {src : Source} {n : Word} (h : txOk s c src n = true)
    (hready : ReadyTransmits s) : Sending s := by
  have hphase := txOk_isTx h
  unfold txOk at h
  split at h
  · cases h
  case h_2 ch hc =>
    simp only [Bool.and_eq_true, decide_eq_true_eq] at h
    obtain ⟨⟨⟨rfl, hr, rfl, rfl, hidx⟩, hsource⟩, hfetch⟩ := h
    exact ⟨hphase, fun hp => by simpa [hp] using hfetch, hsource, hidx, hready _ (isReady_iff.mpr ⟨ch, hc, hr⟩)⟩

theorem working_of_initOk {s : State} {c : Nat} {baud a n : Word} (h : initOk s c baud = true) : Working a n s := by
  obtain ⟨ch, hc⟩ := (initOk_portReady (i := .portInit c baud) h).chan
  exact .init (initOk_fphase h) (initOk_isInit h) hc

theorem working_of_chTxOk {s : State} {g : ChannelConfig} {a n : Word} (hg : s.params.configs[s.curCfg.toNat]? = some g)
    (h : chTxOk s g a n = true) (hready : ReadyTransmits s) : Working a n s := by
  simp only [chTxOk, Bool.and_eq_true, Bool.or_eq_true, decide_eq_true_eq] at h
  obtain ⟨⟨⟨hr, hop⟩, -⟩, hphase⟩ := h
  have hpay : PayloadOk a n := payloadOk_of_admitted (hop.imp_right And.left) (admitted_of_operand hop)
  split at hphase
  case h_1 hf =>
    obtain ⟨x, hx⟩ := Option.isSome_iff_exists.mp (Bool.and_eq_true_iff.mp hphase).2
    exact .encode hf hg hx (hready _ hr) hpay
  case h_2 hf => exact .send (.inr (.inr ⟨hf, hpay⟩)) (sending_of_txOk hphase hready)
  case h_3 hf => exact .send (.inr (.inl hf)) (sending_of_txOk hphase hready)
  case h_4 => cases hphase

/-- The operation is an init or a transmit. -/
def neverReceives : Instr → Bool
  | .portInit _ _ | .portTx _ _ _ | .chInit _ _ | .chTx _ _ _ => true
  | .portRx _ _ _ _ | .chRx _ _ _ => false

theorem working_of_opOk {s : State} {i : Instr} (hi : neverReceives i = true) (h : opOk s i = true)
    (hready : s.pphase.isInit = false → ReadyTransmits s) : Working (operandWords i).1 (operandWords i).2 s := by
  obtain ⟨hkind, -, -, hidle⟩ := s.pphase.kinds
  have hnotInit (htx : s.pphase.isTx = true) : ReadyTransmits s := hready (by simpa [htx] using hkind)
  cases i with
  | portInit c baud => exact working_of_initOk h
  | portTx c a n =>
    simp only [opOk, Bool.and_eq_true, decide_eq_true_eq] at h
    obtain ⟨⟨hf, -⟩, htx⟩ := h
    exact .send (.inl hf) (sending_of_txOk htx (hnotInit (txOk_isTx htx)))
  | chInit k baud =>
    simp only [opOk] at h
    split at h
    · exact working_of_initOk h
    · cases h
  | chTx k a n =>
    simp only [opOk] at h
    split at h
    case h_2 => cases h
    case h_1 g hg =>
      simp only [Bool.and_eq_true, decide_eq_true_eq] at h
      obtain ⟨rfl, h⟩ := h
      exact working_of_chTxOk hg h ((chTxOk_pphase h).elim (fun hp => hready (hidle hp).1) hnotInit)
  | portRx | chRx => cases hi

/-! ## Step 1 -/

section
variable {s : State} (hlegal : s.params.legal) (hlen : s.chans.length = s.params.nChannels) (hstart : s.atStart = true)
include hlegal hlen hstart

theorem acceptInit_working (c : Nat) (baud a n : Word) :
    (acceptInit c baud s).bstat ≠ .busy ∨ Working a n (acceptInit c baud s) := by
  obtain ⟨hf, -⟩ : s.fphase = .none ∧ s.pphase = .idle := by simpa [State.atStart] using hstart
  cases hcheck : checkInit s c baud with
  | error e => exact .inl (by simp [acceptInit_of_error hcheck])
  | ok d =>
    obtain ⟨_, hchan, -⟩ := exceptBind_ok.mp hcheck
    obtain ⟨h1, h2⟩ := checkChannel_ok.mp hchan
    obtain ⟨ch, hc⟩ := chan?_exists h1 (hlen ▸ h2)
    obtain ⟨-, h255, -⟩ := hlegal
    rw [acceptInit_of_ok hcheck]
    refine .inr (.init hf rfl (ch := ch) ?_)
    rw [toNat_ofNat_of_lt (by omega)]
    exact (chan?_congr rfl c).trans hc

end

section
variable {s : State} (hlegal : s.params.legal) (hready : ReadyTransmits s)
include hlegal hready

theorem acceptPortTx_working (hstart : s.atStart = true) (c : Nat) (a n : Word) :
    (acceptPortTx c a n s).bstat ≠ .busy ∨ Working a n (acceptPortTx c a n s) := by
  obtain ⟨hf, -⟩ : s.fphase = .none ∧ s.pphase = .idle := by simpa [State.atStart] using hstart
  cases hcheck : checkTx s c a n with
  | error e => exact .inl (by simp [acceptPortTx_of_error hcheck])
  | ok _ =>
    obtain ⟨⟨-, h2⟩, hr, hnull, hadm⟩ := checkTx_ok.mp hcheck
    have hpay := payloadOk_of_admitted hnull hadm
    obtain ⟨-, h255, -⟩ := hlegal
    rw [acceptPortTx_of_ok hcheck]
    split
    case isTrue => exact .inl (by simp)
    case isFalse hn =>
      refine .inr (.send (.inl hf) (sending_startTx (hpay.resolve_left hn) (word_pos.mpr hn) ?_))
      rw [toNat_ofNat_of_lt (by omega)]
      exact hready c hr

theorem acceptChTx_working (k : Nat) (a n : Word) :
    (acceptChTx k a n s).bstat ≠ .busy ∨ Working a n (acceptChTx k a n s) := by
  cases hg : s.params.configs[k]? with
  | none => exact .inl (by simp [acceptChTx_of_no_config (List.getElem?_eq_none_iff.mp hg)])
  | some g =>
    cases hcheck : checkTx s g.channel.toNat a n with
    | error e => exact .inl (by simp [acceptChTx_of_error hg hcheck])
    | ok _ =>
      obtain ⟨-, hr, hnull, hadm⟩ := checkTx_ok.mp hcheck
      have hpay := payloadOk_of_admitted hnull hadm
      rw [acceptChTx_of_ok hg hcheck]
      split
      case isTrue ht =>
        obtain ⟨x, hx⟩ := Option.isSome_iff_exists.mp ht
        refine .inr (.encode rfl ?_ hx ((hready _ hr).congr rfl rfl) hpay)
        obtain ⟨hk, -⟩ := List.getElem?_eq_some_iff.mp hg
        obtain ⟨-, -, -, -, -, h256, -, -⟩ := hlegal
        show s.params.configs[(BitVec.ofNat 8 k).toNat]? = some g
        rwa [toNat_ofNat_of_lt (by omega)]
      case isFalse =>
        exact .inr (.send (.inr (.inr ⟨rfl, hpay⟩)) (sending_startTx rfl (by decide) ((hready _ hr).congr rfl rfl)))

end

theorem acceptOp_working {i : Instr} {s : State} (hi : neverReceives i = true) (hlegal : s.params.legal)
    (hlen : s.chans.length = s.params.nChannels) (hready : ReadyTransmits s) (hstart : s.atStart = true) :
    (acceptOp i s).bstat ≠ .busy ∨ Working (operandWords i).1 (operandWords i).2 (acceptOp i s) := by
  cases i with
  | portInit c baud => exact acceptInit_working hlegal hlen hstart c baud ..
  | portTx c a n => exact acceptPortTx_working hlegal hready hstart c a n
  | chInit k baud =>
    cases hg : s.params.configs[k]? with
    | none => exact .inl (by simp [acceptOp, acceptChInit_of_no_config baud (List.getElem?_eq_none_iff.mp hg)])
    | some g =>
      rw [acceptOp, acceptChInit_of_config baud hg]
      exact acceptInit_working hlegal hlen hstart ..
  | chTx k a n => exact acceptChTx_working hlegal hready k a n
  | portRx | chRx => cases hi

/-! ## The end -/

/-- The round after a poll of a full buffer makes room. -/
theorem not_fullBuffer_lineRound {s : State} (h : FullBuffer s) (hdepth : 1 ≤ s.params.txDepth) (hturn : s.turn ≤ 1) :
    ¬FullBuffer s.lineRound := by
  rintro ⟨ch', hc', -, -, hlen⟩
  obtain ⟨ch, hc, hon, htx, hfull⟩ := h
  have h1 : s.turn ≤ s.pCh.toNat := hturn.trans (chan?_pos hc)
  have hchan := lineRound_chan? s s.pCh.toNat
  rw [hc, Option.map_some, if_pos h1] at hchan
  obtain rfl : ch' = ch.lineTx := Option.some.inj (hc'.symm.trans hchan)
  rw [lineTx_txbuf hon htx, List.length_tail, hfull] at hlen
  replace hlen : s.params.txDepth - 1 = s.params.txDepth := hlen
  omega

/-- Operation i, an init or a transmit, is past its step 1, and the agents take their turns. -/
structure InProgress (i : Instr) (s : State) : Prop extends TakesTurns i s where
  working : Working (operandWords i).1 (operandWords i).2 s

theorem InProgress.lineRound {i : Instr} {s : State} (h : InProgress i s) : InProgress i s.lineRound :=
  ⟨h.toTakesTurns.lineRound, h.working.lineRound⟩

/-- A bound of the sequencer's turns that operation i has left, but for polls of a full buffer. -/
def ticksLeft (i : Instr) (s : State) : Nat := ticks (operandWords i).2 s

section
variable {i : Instr} {s : State} (h : InProgress i s) (hturn : s.turn = 0)
include h hturn

/-- The sequencer's turn completes the operation, or leaves it fewer turns, or is a poll of a full buffer. -/
theorem InProgress.of_sequencerTurn :
    ∃ t, step s = .next t ∧ (t.bstat = .idle ∨ InProgress i t ∧ t.turn = 1 ∧
      (ticksLeft i t < ticksLeft i s ∨ t = { s with turn := 1 } ∧ FullBuffer t)) := by
  have hw := h.working.withTurn 1
  obtain ⟨t, ht, hnear⟩ := hw.continueOp_nearer
  obtain ⟨hstep, hnext, hbusy⟩ :=
    h.toTakesTurns.step_of_sequencer hturn ((stepOp_of_not_atStart hw.not_atStart).trans ht)
  refine ⟨t, hstep, (continueOp_goesOn ht).symm.imp_right fun hb => ?_⟩
  have hturns := hbusy (hb.trans h.busy)
  obtain (hidle | ⟨hwork, hlt⟩) | ⟨rfl, hfull⟩ := hnear
  · exact absurd (hturns.busy.symm.trans hidle) (by decide)
  · exact ⟨⟨hturns, hwork⟩, hnext, .inl hlt⟩
  · exact ⟨⟨hturns, hw⟩, hnext, .inr ⟨rfl, hfull⟩⟩

/-- The sequencer's turn and the round of the line agents after it complete the operation, or leave it fewer turns, or make
room in a full buffer. -/
theorem InProgress.of_round :
    ∃ t, Reaches s t ∧ (t.bstat = .idle ∨ InProgress i t ∧ t.turn = 0 ∧
      (ticksLeft i t < ticksLeft i s ∨ ticksLeft i t = ticksLeft i s ∧ FullBuffer s ∧ ¬FullBuffer t)) := by
  obtain ⟨t, hstep, hidle | ⟨ht, hone, hnear⟩⟩ := h.of_sequencerTurn hturn
  case inl => exact ⟨t, reaches_of_step hstep, .inl hidle⟩
  case inr =>
    obtain ⟨hn, -, -, -, -, -, -, hdepth⟩ := ht.legal
    have hround : Reaches t t.lineRound := ht.reaches_lineRound (m := t.params.nChannels - 1) (by omega) (by omega)
    refine ⟨t.lineRound, (reaches_of_step hstep).trans hround, .inr ⟨ht.lineRound, rfl, hnear.imp_right ?_⟩⟩
    rintro ⟨rfl, hfull⟩
    exact ⟨rfl, hfull, not_fullBuffer_lineRound hfull hdepth (le_refl 1)⟩

/-- At most two rounds complete the operation or leave it fewer turns. -/
theorem InProgress.of_rounds :
    ∃ t, Reaches s t ∧ (t.bstat = .idle ∨ InProgress i t ∧ t.turn = 0 ∧ ticksLeft i t < ticksLeft i s) := by
  obtain ⟨t, hst, hidle | ⟨ht, hzero, hlt | ⟨heq, -, hroom⟩⟩⟩ := h.of_round hturn
  case inl => exact ⟨t, hst, .inl hidle⟩
  case inr.inl => exact ⟨t, hst, .inr ⟨ht, hzero, hlt⟩⟩
  case inr.inr =>
    obtain ⟨u, htu, hidle | ⟨hu, hzero, hlt | ⟨-, hfull, -⟩⟩⟩ := ht.of_round hzero
    · exact ⟨u, hst.trans htu, .inl hidle⟩
    · exact ⟨u, hst.trans htu, .inr ⟨hu, hzero, heq ▸ hlt⟩⟩
    · exact absurd hfull hroom

theorem InProgress.completes_of_sequencer : ∃ t, Reaches s t ∧ t.bstat = .idle := by
  induction hk : ticksLeft i s using Nat.strong_induction_on generalizing s with
  | _ k ih =>
    obtain ⟨t, hst, hidle | ⟨ht, hzero, hlt⟩⟩ := h.of_rounds hturn
    · exact ⟨t, hst, hidle⟩
    · obtain ⟨u, htu, hidle⟩ := ih _ (hk ▸ hlt) ht hzero rfl
      exact ⟨u, hst.trans htu, hidle⟩

end

/-- An init or a transmit in progress completes, whoever's turn it is. -/
theorem InProgress.completes {i : Instr} {s : State} (h : InProgress i s) (hturn : s.turn ≤ s.params.nChannels) :
    ∃ t, Reaches s t ∧ t.bstat = .idle := by
  obtain ⟨t, hst, hzero, rfl | rfl⟩ := h.reaches_sequencer hturn
  · exact h.completes_of_sequencer hzero
  · obtain ⟨u, htu, hidle⟩ := h.lineRound.completes_of_sequencer hzero
    exact ⟨u, hst.trans htu, hidle⟩

/-- An init or a transmit whose step 1 comes in the sequencer's turn takes a fault there or completes. -/
theorem ends_of_sequencer {i : Instr} {s : State} (hi : neverReceives i = true) (h : TakesTurns i s)
    (hready : ReadyTransmits s) (hstart : s.atStart = true) (hturn : s.turn = 0) :
    ∃ t, Reaches s t ∧ t.bstat ≠ .busy := by
  have hready : ReadyTransmits { s with turn := 1 } := fun c hr =>
    (hready c ((isReady_congr rfl c).symm.trans hr)).congr rfl rfl
  obtain ⟨t, ht⟩ : ∃ t, acceptOp i { s with turn := 1 } = t := ⟨_, rfl⟩
  obtain ⟨hstep, hone, hbusy⟩ := h.step_of_sequencer hturn (ht ▸ stepOp_of_atStart (s := { s with turn := 1 }) hstart)
  by_cases hb : t.bstat = .busy
  case neg => exact ⟨t, reaches_of_step hstep, hb⟩
  case pos =>
    have hturns := hbusy hb
    obtain hend | hwork := ht ▸ acceptOp_working (s := { s with turn := 1 }) hi h.legal h.chans hready hstart
    · exact absurd hb hend
    · obtain ⟨u, htu, hidle⟩ := InProgress.completes ⟨hturns, hwork⟩ (hone ▸ hturns.legal.1)
      exact ⟨u, (reaches_of_step hstep).trans htu, by simp [hidle]⟩

/-- An init or a transmit at its start takes a fault in its step 1 or completes, whoever's turn it is. -/
theorem ends_of_atStart {i : Instr} {s : State} (hi : neverReceives i = true) (h : TakesTurns i s)
    (hready : ReadyTransmits s) (hstart : s.atStart = true) (hturn : s.turn ≤ s.params.nChannels) :
    ∃ t, Reaches s t ∧ t.bstat ≠ .busy := by
  obtain ⟨t, hst, hzero, rfl | rfl⟩ := h.reaches_sequencer hturn
  · exact ends_of_sequencer hi h hready hstart hzero
  · obtain ⟨u, htu, hend⟩ := ends_of_sequencer hi h.lineRound hready.lineRound hstart hzero
    exact ⟨u, hst.trans htu, hend⟩

/-- Settles O54: past step 1 the invariant has an operation in progress, which each two rounds of turns bring nearer its end;
and step 1 faults or starts one. -/
theorem transmitsAndInitsComplete : Obligations.TransmitsAndInitsComplete := by
  intro s i hinv hb hd hq hi
  have hnever : neverReceives i = true := by obtain ⟨c, x, n, rfl | rfl | rfl | rfl⟩ := hi <;> rfl
  have hturns := takesTurns_of_inv hinv hb hd hq
  have hready := readyTransmits_of_inv hinv hb
  obtain ⟨⟨-, -, -, -, -, -, -, hturn⟩, -, -, hphase⟩ := hinv
  cases hstart : s.atStart with
  | true =>
    obtain ⟨-, hp⟩ : s.fphase = .none ∧ s.pphase = .idle := by simpa [State.atStart] using hstart
    obtain ⟨t, ⟨k, hk⟩, hend⟩ := ends_of_atStart hnever hturns (hready (by simp [hp, PPhase.isInit])) hstart hturn
    exact ⟨k, t, hk, hend, nofun⟩
  | false =>
    have hwork := working_of_opOk hnever (opOk_of_phaseOk hphase hstart hd) hready
    obtain ⟨t, ⟨k, hk⟩, hidle⟩ := InProgress.completes ⟨hturns, hwork⟩ hturn
    exact ⟨k, t, hk, by simp [hidle], fun _ => hidle⟩

end Sys2Proof.Machine
end
